-- ==== Sys2Proof/Word.lean ====
section
/-! DEFINITION. The words of the block: bytes, levels, PHASE codes, and the colour triple of a pixel. What is as wide as the
configuration's LEN_BITS (LEN, IDX, an index of FB, the length field, a command word) is a natural, reduced to its width
where it is written (00_scope.md R6; log entry 19). -/

namespace Sys2Proof

/-- A byte of the frame buffer or of SHREG: 8 bits (00_scope.md R8). -/
abbrev Byte := BitVec 8

/-- The level of the one-bit pin: `true` is high (1), `false` is low (0) (00_scope.md R8, 10_state.md R28). -/
abbrev Level := Bool

/-- A value of PHASE: 4 bits (10_state.md R22). -/
abbrev PhaseCode := BitVec 4

/-- A pixel's colour: three 8-bit channel intensities (30_encoding.md R74, 45_line_observation.md R180). -/
structure Rgb where
  r : Byte
  g : Byte
  b : Byte
deriving DecidableEq, Repr, Inhabited

end Sys2Proof
end

