-- ==== Sys2Proof/Config.lean ====
section
/-! DEFINITION. The configuration `Cfg` of a build (00_scope.md R6) and the values the spec leaves open, as constants with
no body: nothing in Lean can compute one, so a claim holds whatever they are. -/

namespace Sys2Proof

/-- The configuration of the block, 00_scope.md R6. Every field is fixed before the block runs; PIN_ID is an opaque
name, held as a number. -/
structure Cfg where
  /-- F_HZ, the clock frequency in hertz. -/
  fHz : Nat
  /-- T0H_NS, nominal high time of symbol 0 in nanoseconds. -/
  t0hNs : Nat
  /-- T1H_NS, nominal high time of symbol 1. -/
  t1hNs : Nat
  /-- TBIT_NS, nominal bit period. -/
  tbitNs : Nat
  /-- TRESET_NS, minimum reset (latch) low time. -/
  tresetNs : Nat
  /-- T0H_MIN_NS, lower end of the tolerance band of symbol 0. -/
  t0hMinNs : Nat
  /-- T0H_MAX_NS, upper end of the tolerance band of symbol 0. -/
  t0hMaxNs : Nat
  /-- T1H_MIN_NS, lower end of the tolerance band of symbol 1. -/
  t1hMinNs : Nat
  /-- T1H_MAX_NS, upper end of the tolerance band of symbol 1. -/
  t1hMaxNs : Nat
  /-- BASE, cycles held in step 2 (HOLDB). -/
  base : Nat
  /-- DELTA, cycles held in step 4 (HOLDD). -/
  delta : Nat
  /-- FINAL, cycles held in step 6 (HOLDF). -/
  final : Nat
  /-- C_ENTER, cost of ENTER. -/
  cEnter : Nat
  /-- C_RISE, cost of RISE. -/
  cRise : Nat
  /-- C_COND, cost of COND. -/
  cCond : Nat
  /-- C_FALL, cost of FALL. -/
  cFall : Nat
  /-- C_LOOP, cost of NEXT. -/
  cLoop : Nat
  /-- C_EXIT, cost of EXIT. -/
  cExit : Nat
  /-- T_LATCH, cycles LATCH holds the line low. -/
  tLatch : Nat
  /-- NPIX, the number of physical LEDs in the string. -/
  nPix : Nat
  /-- PIN_ID, which physical line PIN is. -/
  pinId : Nat
  /-- LEN_BITS, the width of the length field of a command word (92_eei_decisions.md D4; log entry 19). -/
  lenBits : Nat
  /-- IE_RESET, the value of IE after reset. -/
  ieReset : Bool
deriving DecidableEq, Repr, Inhabited

/-- What made the LEDs' colours open: the occasions of 45_line_observation.md R181, R185 and of U3, U4, U5, U7, U10 of
93_implementation_defined.md. A different occasion is a different draw (log entry 16). -/
inductive LedDraw where
  /-- Before the first latch after reset (U10). -/
  | powerUp
  /-- Line frame number `frame` was latched with a wrong length or with a run whose reading is open (U3, U4, U5). -/
  | badFrame (frame : Nat)
  /-- Line frame number `frame`, not yet latched, holds `openLows` low runs that may have been taken for a gap (U3). -/
  | openRun (frame openLows : Nat)
  /-- The line was not driven during a command; the colours at cycle `now` are open (U7). -/
  | undriven (now : Nat)
deriving DecidableEq, Repr

/-! The open build parameters (00_scope.md R6; 93_implementation_defined.md P1 to P9). -/

/-- F_HZ less one: F_HZ is a natural greater than 0 and otherwise open. -/
opaque Config.fHzLessOne : Nat
opaque Config.t0hMinNs : Nat
opaque Config.t0hMaxNs : Nat
opaque Config.t1hMinNs : Nat
opaque Config.t1hMaxNs : Nat
opaque Config.base : Nat
opaque Config.delta : Nat
opaque Config.final : Nat
opaque Config.cEnter : Nat
opaque Config.cRise : Nat
opaque Config.cCond : Nat
opaque Config.cFall : Nat
opaque Config.cLoop : Nat
opaque Config.cExit : Nat
/-- T_LATCH less RESET_CYC: T_LATCH is at least RESET_CYC and otherwise open (43_timing_profile.md R160). -/
opaque Config.tLatchAboveReset : Nat
opaque Config.nPix : Nat
opaque Config.pinId : Nat
opaque Config.ieReset : Bool

/-! The free values: what no parameter of the build fixes. -/

/-- The value of OE after system reset number `resets`: the Host's, OPEN (10_state.md R33, R40; log entry 3). -/
opaque Config.freeOe : (resets : Nat) → Bool

/-- What an index of FB reads as when the Host has not written it in buffer generation `gen` (10_state.md R40,
log entry 4). -/
opaque Config.unwrittenByte : (gen index : Nat) → Byte

/-- RXBITS at cycle `now` before the first latch of a frame of the right length (70_reset_and_hazards.md R222, U10; log
entry 15). -/
opaque Config.freeRxBits : (resets now : Nat) → List Bool

/-- The colour of device `k` where the spec leaves it open (45_line_observation.md R181, R185; log entry 16). -/
opaque Config.freeLed : (resets : Nat) → LedDraw → (k : Nat) → Rgb

end Sys2Proof
end

