-- ==== Sys2Proof/Syntax.lean ====
section
/-! DEFINITION. The instructions: one constructor per row of spec/opcode_table.json. -/

namespace Sys2Proof

/-- The two commands (format CMD, 30_encoding.md R80) and the eleven micro-operations (format UOP, R85). Only TRANSMIT
has an operand: its byte count N, a value of the field `len` (R81, `Instr.wf`). -/
inductive Instr where
  /-- TRANSMIT(N), 40_transmit.md R100. -/
  | transmit (n : Nat)
  /-- LATCH, 42_latch.md R140; the field `len` of its word is ignored (30_encoding.md R84). -/
  | latch
  /-- ENTER, 41_critical_section.md R131. -/
  | enter
  /-- LOADB, 40_transmit.md R103. -/
  | loadb
  /-- RISE, 40_transmit.md R104. -/
  | rise
  /-- HOLDB, 40_transmit.md R105. -/
  | holdb
  /-- COND, 40_transmit.md R106. -/
  | cond
  /-- HOLDD, 40_transmit.md R107. -/
  | holdd
  /-- FALL, 40_transmit.md R108. -/
  | fall
  /-- HOLDF, 40_transmit.md R109. -/
  | holdf
  /-- NEXT, 40_transmit.md R110. -/
  | next
  /-- EXIT, 41_critical_section.md R132. -/
  | exit
  /-- HOLDR, 42_latch.md R142. -/
  | holdr
deriving DecidableEq, Repr

end Sys2Proof
end

