-- ==== Sys2Proof/Decode.lean ====
section
/-! DEFINITION. Decoding of the two formats of 30_encoding.md: the command word CMD (R80 to R84, R92) and the
4-bit micro-operation code UOP in PHASE (R85, 10_state.md R22). Total; what is no instruction is rejected by name. After
it the encoder, from the same tables, and what the host asks of the decoder. A command word has `2 + LEN_BITS` bits: `op`
above the LEN_BITS bits of `len`, which are 17, 16 and 15 to 0 with LEN_BITS = 16 (R80, D4). -/

namespace Sys2Proof

/-- The two formats of spec/opcode_table.json. -/
inductive Format where
  /-- A command word of `2 + LEN_BITS` bits (R80). -/
  | cmd
  /-- A micro-operation code of 4 bits (R85). -/
  | uop
deriving DecidableEq, Repr

/-- The bits of a word of a format. -/
def Format.bits (lenBits : Nat) : Format → Nat
  | .cmd => 2 + lenBits
  | .uop => 4

/-- Why a word is no instruction. -/
inductive Reject where
  /-- A command word with `op = 0b00`, reserved (R83). -/
  | reservedOp00
  /-- A command word with `op = 0b11`, reserved (R83). -/
  | reservedOp11
  /-- Code 0 is IDLE, a state and not an operation (R85). -/
  | idleIsNoOperation
  /-- Codes 12 to 15, which PHASE never holds (R85, U14). -/
  | unusedCode
  /-- A number with more bits than its format has. -/
  | tooWide
deriving DecidableEq, Repr

/-- The decoder's answer. -/
inductive Decoded where
  | instr (i : Instr)
  | rejected (r : Reject)
deriving DecidableEq, Repr

/-- The decoded instruction, if there is one. -/
def Decoded.toOption : Decoded → Option Instr
  | .instr i => some i
  | .rejected _ => none

/-! The codes of PHASE (10_state.md R22). -/

abbrev Phase.idle : PhaseCode := 0#4
abbrev Phase.enter : PhaseCode := 1#4
abbrev Phase.loadb : PhaseCode := 2#4
abbrev Phase.rise : PhaseCode := 3#4
abbrev Phase.holdb : PhaseCode := 4#4
abbrev Phase.cond : PhaseCode := 5#4
abbrev Phase.holdd : PhaseCode := 6#4
abbrev Phase.fall : PhaseCode := 7#4
abbrev Phase.holdf : PhaseCode := 8#4
abbrev Phase.next : PhaseCode := 9#4
abbrev Phase.exit : PhaseCode := 10#4
abbrev Phase.holdr : PhaseCode := 11#4

/-- The field `op` of a command word, the two bits above `len` (R80). -/
def cmdOp (lenBits : Nat) (w : Nat) : Nat := w / 2 ^ lenBits % 4

/-- The field `len` of a command word, its low LEN_BITS bits, zero-extended (R78 (c), R80, R81). -/
def cmdLen (lenBits : Nat) (w : Nat) : Nat := w % 2 ^ lenBits

/-- The decoder of command words (R92), total on `2 + LEN_BITS` bits. In a LATCH word `len` is ignored (R84). -/
def decodeCommand (lenBits : Nat) (w : Nat) : Decoded :=
  if w < 2 ^ (2 + lenBits) then
    match cmdOp lenBits w with
    | 0 => .rejected .reservedOp00
    | 1 => .instr (.transmit (cmdLen lenBits w))
    | 2 => .instr .latch
    | _ => .rejected .reservedOp11
  else .rejected .tooWide

/-- The decoder of micro-operation codes (R85). -/
def decodePhase (p : PhaseCode) : Decoded :=
  match p.toNat with
  | 0 => .rejected .idleIsNoOperation
  | 1 => .instr .enter
  | 2 => .instr .loadb
  | 3 => .instr .rise
  | 4 => .instr .holdb
  | 5 => .instr .cond
  | 6 => .instr .holdd
  | 7 => .instr .fall
  | 8 => .instr .holdf
  | 9 => .instr .next
  | 10 => .instr .exit
  | 11 => .instr .holdr
  | _ => .rejected .unusedCode

/-- Decode any number as a word of a format. -/
def decode (lenBits : Nat) (f : Format) (w : Nat) : Decoded :=
  match f with
  | .cmd => decodeCommand lenBits w
  | .uop => if w < 2 ^ 4 then decodePhase (BitVec.ofNat 4 w) else .rejected .tooWide

/-- The format of an instruction's word (R80, R85). -/
def Instr.format : Instr → Format
  | .transmit _ | .latch => .cmd
  | .enter | .loadb | .rise | .holdb | .cond | .holdd | .fall | .holdf | .next | .exit | .holdr => .uop

/-- Is the operand a value of its field: `0 ≤ N < 2 ^ LEN_BITS` (10_state.md R23, R81). A micro-operation has none. -/
def Instr.wf (lenBits : Nat) : Instr → Bool
  | .transmit n => decide (n < 2 ^ lenBits)
  | .latch | .enter | .loadb | .rise | .holdb | .cond | .holdd | .fall | .holdf | .next | .exit | .holdr => true

/-- The word of an instruction: op `0b01` above N for TRANSMIT(N), op `0b10` above a zero `len` for LATCH, that is
`0x10000 + N` and `0x20000` with LEN_BITS = 16 (R82, R92); the code of PHASE for a micro-operation (R85). -/
def encode (lenBits : Nat) : Instr → Nat
  | .transmit n => 2 ^ lenBits + n
  | .latch => 2 * 2 ^ lenBits
  | .enter => 1
  | .loadb => 2
  | .rise => 3
  | .holdb => 4
  | .cond => 5
  | .holdd => 6
  | .fall => 7
  | .holdf => 8
  | .next => 9
  | .exit => 10
  | .holdr => 11

/-- The LEN_BITS of spec/opcode_table.json, whose command words have 18 bits (R82). -/
def tableLenBits : Nat := 16

/-- The format that the table gives a row of `nbits` bits: one byte holds a micro-operation code, a command word takes
more (log entry 18). -/
def tableFormat (nbits : Nat) : Format := if nbits ≤ 8 then .uop else .cmd

/-- The instruction the decoder reads from a word numbered as spec/opcode_table.json numbers it. -/
def decodeTableWord (nbits w : Nat) : Option Instr := (decode tableLenBits (tableFormat nbits) w).toOption

end Sys2Proof
end

