-- ==== Sys2Proof/Machine/Timing.lean ====
section
/-! DEFINITION. The bit-cell timing profile and the arithmetic of cycle counts (43_timing_profile.md), the cost of every
operation (70_reset_and_hazards.md R240), and the configuration of the build. All quantities are naturals (R159). -/

namespace Sys2Proof

/-- `cyc(t)`: the cycles nearest to `t` nanoseconds, ties up (R152). -/
def Cfg.cyc (c : Cfg) (t : Nat) : Nat := (2 * t * c.fHz + 10 ^ 9) / (2 * 10 ^ 9)

/-- `cyc_up(t)`: the ceiling conversion, for lower bounds (R152). -/
def Cfg.cycUp (c : Cfg) (t : Nat) : Nat := (t * c.fHz + (10 ^ 9 - 1)) / 10 ^ 9

/-- `cyc_down(t)`: the floor conversion, for upper bounds (R152). -/
def Cfg.cycDown (c : Cfg) (t : Nat) : Nat := t * c.fHz / 10 ^ 9

/-- How long `n` cycles last, in nanoseconds: a rational (R152). -/
def Cfg.ns (c : Cfg) (n : Nat) : Rat := (n : Rat) * 10 ^ 9 / (c.fHz : Rat)

/-- RESET_CYC: the least cycles that last TRESET_NS (R160). -/
def Cfg.resetCyc (c : Cfg) : Nat := c.cycUp c.tresetNs

/-! The derived durations of R151. -/

/-- TH0, the high time of symbol 0. -/
def Cfg.th0 (c : Cfg) : Nat := c.base + c.cCond

/-- TH1, the high time of symbol 1. -/
def Cfg.th1 (c : Cfg) : Nat := c.base + c.cCond + c.delta + c.cFall

/-- TCELL, the length of every cell. -/
def Cfg.tcell (c : Cfg) : Nat := c.cRise + c.base + c.cCond + c.delta + c.cFall + c.final + c.cLoop

/-- TL0, the low time after a symbol-0 high. -/
def Cfg.tl0 (c : Cfg) : Nat := c.cRise + c.delta + c.cFall + c.final + c.cLoop

/-- TL1, the low time after a symbol-1 high. -/
def Cfg.tl1 (c : Cfg) : Nat := c.cRise + c.final + c.cLoop

/-- TH(b), the high time of a bit. -/
def Cfg.th (c : Cfg) (b : Bool) : Nat := if b then c.th1 else c.th0

/-- TL(b) = TCELL - TH(b), the low time after a bit. -/
def Cfg.tl (c : Cfg) (b : Bool) : Nat := c.tcell - c.th b

/-- OVH_H0 (R151, R155). -/
def Cfg.ovhH0 (c : Cfg) : Nat := c.cCond

/-- OVH_H1 (R151, R155). -/
def Cfg.ovhH1 (c : Cfg) : Nat := c.cCond + c.cFall

/-- OVH_CELL (R151, R155). -/
def Cfg.ovhCell (c : Cfg) : Nat := c.cRise + c.cCond + c.cFall + c.cLoop

/-! The derivation of the profile from nanoseconds, R153; subtraction of naturals truncates (R154). -/

/-- BASE as R153 derives it. -/
def Cfg.derivedBase (c : Cfg) : Nat := c.cyc c.t0hNs - c.ovhH0

/-- DELTA as R153 derives it. -/
def Cfg.derivedDelta (c : Cfg) : Nat := (c.cyc c.t1hNs - c.ovhH1) - c.derivedBase

/-- FINAL as R153 derives it. -/
def Cfg.derivedFinal (c : Cfg) : Nat := ((c.cyc c.tbitNs - c.ovhCell) - c.derivedBase) - c.derivedDelta

/-- The configuration with BASE, DELTA and FINAL derived by R153. -/
def Cfg.derive (c : Cfg) : Cfg :=
  { c with base := c.derivedBase, delta := c.derivedDelta, final := c.derivedFinal }

/-! TimingValid, R157. -/

/-- V1: the cell is the nominal period within one cycle. -/
abbrev Cfg.V1 (c : Cfg) : Prop := c.cyc c.tbitNs ≤ c.tcell + 1 ∧ c.tcell ≤ c.cyc c.tbitNs + 1

/-- V2: the high time of symbol 0 is in its tolerance band. -/
abbrev Cfg.V2 (c : Cfg) : Prop := c.cycUp c.t0hMinNs ≤ c.th0 ∧ c.th0 ≤ c.cycDown c.t0hMaxNs

/-- V3: the high time of symbol 1 is in its tolerance band. -/
abbrev Cfg.V3 (c : Cfg) : Prop := c.cycUp c.t1hMinNs ≤ c.th1 ∧ c.th1 ≤ c.cycDown c.t1hMaxNs

/-- V4: a symbol-0 cell has a high run. -/
abbrev Cfg.V4 (c : Cfg) : Prop := 1 ≤ c.th0

/-- V5: the symbols differ. -/
abbrev Cfg.V5 (c : Cfg) : Prop := c.th0 < c.th1

/-- V6: consecutive cells are separated by a low run. -/
abbrev Cfg.V6 (c : Cfg) : Prop := 1 ≤ c.tl1

/-- V7: no low run inside a TRANSMIT looks like a reset gap. -/
abbrev Cfg.V7 (c : Cfg) : Prop := c.tl0 < c.resetCyc

/-- V8: the latch hold is a reset gap. -/
abbrev Cfg.V8 (c : Cfg) : Prop := c.resetCyc ≤ c.tLatch

/-- TimingValid(Cfg), R157: a named premise of claims about decoding; the hardware checks none of it. -/
abbrev Cfg.TimingValid (c : Cfg) : Prop :=
  c.V1 ∧ c.V2 ∧ c.V3 ∧ c.V4 ∧ c.V5 ∧ c.V6 ∧ c.V7 ∧ c.V8

/-- The cycles an operation occupies, 70_reset_and_hazards.md R240, a field of Cfg for each and never a function of the
state (40_transmit.md R116). Acceptance of a command and LOADB take none. -/
def Cfg.cost (c : Cfg) : Instr → Nat
  | .transmit _ => 0
  | .latch => 0
  | .enter => c.cEnter
  | .loadb => 0
  | .rise => c.cRise
  | .holdb => c.base
  | .cond => c.cCond
  | .holdd => c.delta
  | .fall => c.cFall
  | .holdf => c.final
  | .next => c.cLoop
  | .exit => c.cExit
  | .holdr => c.tLatch

/-- The cycles of a whole TRANSMIT of `n` bytes, from acceptance to IDLE (40_transmit.md R115). -/
def Cfg.transmitCycles (c : Cfg) (n : Nat) : Nat := c.cEnter + 8 * n * c.tcell + c.cExit

/-- The hold counter's widest constant, which a realisation's counter must be able to count (R164). -/
def Cfg.widestHold (c : Cfg) : Nat :=
  [c.base, c.delta, c.final, c.tLatch, c.cEnter, c.cRise, c.cCond, c.cFall, c.cLoop, c.cExit].foldr max 0

/-- The configuration of the build but for T_LATCH: the open parameters of Config.lean, and the nominals of the protocol
and the width LEN_BITS that 00_scope.md R6 gives. -/
def Config.buildButLatch : Cfg where
  fHz := Config.fHzLessOne + 1
  t0hNs := 400
  t1hNs := 850
  tbitNs := 1250
  tresetNs := 50000
  t0hMinNs := Config.t0hMinNs
  t0hMaxNs := Config.t0hMaxNs
  t1hMinNs := Config.t1hMinNs
  t1hMaxNs := Config.t1hMaxNs
  base := Config.base
  delta := Config.delta
  final := Config.final
  cEnter := Config.cEnter
  cRise := Config.cRise
  cCond := Config.cCond
  cFall := Config.cFall
  cLoop := Config.cLoop
  cExit := Config.cExit
  tLatch := 0
  nPix := Config.nPix
  pinId := Config.pinId
  lenBits := 16
  ieReset := Config.ieReset

/-- The configuration of the build (R6): T_LATCH is any natural not below RESET_CYC (R160; log entry 21). -/
def Config.build : Cfg :=
  { Config.buildButLatch with tLatch := Config.buildButLatch.resetCyc + Config.tLatchAboveReset }

/-! The three reference configurations, R165. The fields that R165 does not give (the tolerance bands, NPIX, PIN_ID,
IE_RESET) are those of `c`. -/

/-- What the three have in common. -/
def Cfg.referenceNominals (c : Cfg) : Cfg :=
  { c with t0hNs := 400, t1hNs := 850, tbitNs := 1250, tresetNs := 50000, lenBits := 16 }

/-- CFG_A: 8 MHz, every drive step one clock edge, bookkeeping free. -/
def Cfg.cfgA (c : Cfg) : Cfg :=
  { c.referenceNominals with
    fHz := 8000000, cEnter := 1, cRise := 1, cCond := 1, cFall := 1, cLoop := 0, cExit := 1
    base := 2, delta := 3, final := 2, tLatch := 400 }

/-- CFG_B: CFG_A's costs at 16 MHz. -/
def Cfg.cfgB (c : Cfg) : Cfg :=
  { c.referenceNominals with
    fHz := 16000000, cEnter := 1, cRise := 1, cCond := 1, cFall := 1, cLoop := 0, cExit := 1
    base := 5, delta := 7, final := 5, tLatch := 800 }

/-- CFG_C: 16 MHz, larger step overheads, the line timing of CFG_B. -/
def Cfg.cfgC (c : Cfg) : Cfg :=
  { c.referenceNominals with
    fHz := 16000000, cEnter := 2, cRise := 1, cCond := 2, cFall := 2, cLoop := 3, cExit := 1
    base := 4, delta := 6, final := 2, tLatch := 800 }

end Sys2Proof
end

