-- ==== Sys2Proof/Machine/State.lean ====
section
/-! DEFINITION. The state of the system the step function moves: the record of 10_state.md R20, the configuration, the
inputs of the environment, and what reset leaves (R40). Plain data. -/

namespace Sys2Proof.Machine

/-- A segment "level for so many cycles" (00_scope.md R10). -/
abbrev Segment := Level × Nat

/-- A line trace, oldest segment first (00_scope.md R10, 10_state.md R37). -/
abbrev Trace := List Segment

/-- The frame buffer: pairs of an index and its byte, indices strictly rising, none listed that the Host has not
written (10_state.md R34, R35; log entry 4). -/
abbrev Memory := List Host.Cell

/-- What the Host does while PHASE = IDLE (10_state.md R41, 60_exceptions.md R212). -/
inductive HostStep where
  /-- Present a command word on `cmd_word` until it is accepted (R36, 40_transmit.md R119). -/
  | command (w : Nat)
  /-- Let `k` cycles pass, `k ≥ 1`: the step Idle(k) of R41 (a). -/
  | idle (k : Nat)
  /-- HostWrite FB := bytes (R41 (b), 30_encoding.md R88). -/
  | writeFb (bytes : List Byte)
  /-- HostWrite of one byte of FB (R41 (b): "any values"). -/
  | writeByte (index : Nat) (b : Byte)
  /-- HostWrite OE := v (R33, R41 (b)). -/
  | writeOe (v : Bool)
  /-- HostWrite IE := v (R29, R41 (b)). -/
  | writeIe (v : Bool)
deriving DecidableEq, Repr

/-- What the environment's interruption sources do at one point between steps (60_exceptions.md R193, R196). -/
inductive Interrupt where
  /-- No request at this point. -/
  | quiet
  /-- A request of a maskable source, for `k ≥ 1` cycles: served when IE = 1, held until then (R193, R197). -/
  | preempt (k : Nat)
  /-- The step PreemptNM(k) that R196 lets a model add: a source that ignores IE. -/
  | preemptNM (k : Nat)
deriving DecidableEq, Repr

/-- Ghost: is the observation of the run defined (45_line_observation.md R186, R223 P_OE; log entry 10). -/
inductive LineStatus where
  /-- No command was accepted since reset. -/
  | fresh
  /-- Every command since reset ran with OE = 1, and OE has stayed 1 since the first. -/
  | driven
  /-- A command ran with OE = 0, or OE was cleared after the first command: the observation is undefined. -/
  | lost
deriving DecidableEq, Repr

/-- Why the machine stops with a fault. -/
inductive Fault where
  /-- Raised by step when PHASE holds a code from 12 to 15 (93_implementation_defined.md U14). Safe: the block never
  reaches it (10_state.md R42 (a)). -/
  | illegalPhase (code : PhaseCode)
deriving DecidableEq, Repr

/-- Why the machine refuses. -/
inductive Refusal where
  /-- Raised by exec for an instruction with no meaning yet. Safe. -/
  | notModelled (mnemonic : String)
  /-- Raised by step when the Host presents a word in IDLE that is no command: a reserved one, which is never accepted
  and "the machine refuses a program that contains one" (30_encoding.md R83, U8), or a number wider than `cmd_word`
  (R36; log entry 11). Safe. -/
  | reservedCommand (w : Nat)
deriving DecidableEq, Repr

/-- The state of the system, 10_state.md R20. -/
structure State where
  /-- Cfg, constant (R32; log entry 1). -/
  cfg : Cfg
  /-- PHASE, the program counter (R22). -/
  phase : PhaseCode
  /-- LEN, LEN_BITS wide, the byte count of the TRANSMIT in progress (R23). -/
  len : Nat
  /-- IDX, LEN_BITS wide, the index of the byte being sent (R24). -/
  idx : Nat
  /-- BITCNT, the cells still to send of the current byte (R25). -/
  bitcnt : BitVec 4
  /-- SHREG, the byte being sent (R26). -/
  shreg : Byte
  /-- IE_SAVED (R27). -/
  ieSaved : Bool
  /-- PIN (R28). -/
  pin : Level
  /-- IE, the interruption-enable flag (R29). -/
  ie : Bool
  /-- OE, the pin's direction (R33). -/
  oe : Bool
  /-- FB, the frame buffer (R34). -/
  fb : Memory
  /-- TRACE, ghost (R37). -/
  trace : Trace
  /-- Ghost: the level of OE over time, cycle for cycle beside TRACE (R33; log entry 10). -/
  oeTrace : Trace
  /-- NOW, ghost: the cycles since reset (R37). -/
  now : Nat
  /-- Ghost: is the observation of the run defined (R186). -/
  line : LineStatus
  /-- The Host's actions to come, in order (R20, R41; log entry 6). -/
  host : List HostStep
  /-- The Preemptor's requests to come, one a step (R20, R193; log entry 7). -/
  preemptor : List Interrupt
  /-- The levels of `rst` to come, one a step (R36, R40; log entry 9). -/
  rst : List Bool
  /-- How many system resets there have been: the draws of OE and LED (log entries 3 and 16). -/
  resets : Nat
  /-- Which generation of FB this is: the draws of its unwritten bytes (log entry 4). -/
  fbGen : Nat
deriving DecidableEq, Repr

/-- What a system reset leaves (10_state.md R40, R220): IDLE, pin low, TRACE empty, NOW = 0, IE = IE_RESET; OE and FB the
Host's; the five registers R40 leaves unspecified at 0 (log entry 2). The environment's inputs to come are not state of
the block and are given. -/
def State.afterReset (cfg : Cfg) (resets fbGen : Nat) (host : List HostStep) (preemptor : List Interrupt)
    (rst : List Bool) : State where
  cfg := cfg
  phase := Phase.idle
  len := 0
  idx := 0
  bitcnt := 0#4
  shreg := 0#8
  ieSaved := false
  pin := false
  ie := cfg.ieReset
  oe := Config.freeOe resets
  fb := []
  trace := []
  oeTrace := []
  now := 0
  line := .fresh
  host := host
  preemptor := preemptor
  rst := rst
  resets := resets
  fbGen := fbGen

/-- The machine right after reset: the build's configuration, and no input presented. -/
def State.reset : State := State.afterReset Config.build 0 0 [] [] []

end Sys2Proof.Machine
end

