-- ==== Sys2Proof/Machine/Line.lean ====
section
/-! DEFINITION. The line trace: emission, the normal form `Runs`, the level in a cycle and the edges (00_scope.md R10,
45_line_observation.md R170). -/

namespace Sys2Proof.Machine

/-- Append a segment; one of no cycles appends nothing (R10). -/
def Trace.push (t : Trace) (level : Level) (cycles : Nat) : Trace :=
  if cycles = 0 then t else t ++ [(level, cycles)]

/-- The cycles of a trace. -/
def Trace.total (t : Trace) : Nat := (t.map Prod.snd).sum

/-- Put one segment before a list of runs: dropped if empty, merged with the first run if of its level (R10). -/
def consRun (seg : Segment) (runs : Trace) : Trace :=
  if seg.2 = 0 then runs
  else
    match runs with
    | [] => [seg]
    | (l, c) :: rest => if seg.1 = l then (l, seg.2 + c) :: rest else seg :: (l, c) :: rest

/-- `Runs(TRACE)`: zero-length segments dropped, adjacent segments of equal level merged (R10). -/
def runs (t : Trace) : Trace := t.foldr consRun []

/-- The lengths of the high runs of a list of runs, in order. -/
def highRuns : Trace → List Nat
  | [] => []
  | (true, h) :: rest => h :: highRuns rest
  | (false, _) :: rest => highRuns rest

/-- The level in cycle `t`, counted from the start of the trace; none after its end (R170). -/
def Trace.levelAt : Trace → Nat → Option Level
  | [], _ => none
  | (l, c) :: rest, t => if t < c then some l else Trace.levelAt rest (t - c)

/-- The cycles at whose start a run of level `l` begins, in a list of runs whose first begins at cycle `start`. -/
def edgesTo (l : Level) : (start : Nat) → Trace → List Nat
  | _, [] => []
  | start, (m, c) :: rest =>
    if m = l then start :: edgesTo l (start + c) rest else edgesTo l (start + c) rest

/-- The rising edges of a trace (40_transmit.md R115, 45_line_observation.md R170). -/
def risingEdges (t : Trace) : List Nat := edgesTo true 0 (runs t)

/-- The falling edges of a trace that begins low (R115, R171). -/
def fallingEdges (t : Trace) : List Nat := (edgesTo false 0 (runs t)).filter (0 < ·)

/-- Does a trace end in a low run of at least `gap` cycles: a closed reset gap at its end (45_line_observation.md R173). -/
def endsInGap (gap : Nat) (t : Trace) : Bool :=
  match (runs t).getLast? with
  | some (false, l) => decide (gap ≤ l)
  | _ => false

/-- The level of the line in cycle `t`, counted from reset: in a cycle with OE = 1 the level of PIN, which TRACE
records; none in a cycle with OE = 0, where the spec says nothing of it, and none after the last cycle (10_state.md R28,
R33, 45_line_observation.md R170; log entry 10). -/
def State.lineLevel (s : State) (t : Nat) : Option Level :=
  match s.oeTrace.levelAt t with
  | some true => s.trace.levelAt t
  | some false | none => none

/-- The observation `Runs(TRACE)` (R170); none in a run that it refuses (R186). -/
def State.waveform (s : State) : Option Trace :=
  match s.line with
  | .lost => none
  | .fresh | .driven => some (runs s.trace)

end Sys2Proof.Machine
end

