-- ==== Sys2Proof/Machine/Ops.lean ====
section
/-! DEFINITION. The named operations over memory and registers that the meanings share. The block takes no exception and
has no return from one (60_exceptions.md R190, R199, R200): what stands in their place are the steps of the environment
here, `State.steal` (a preemption, R193), `State.idleFor` and `State.hostWrite` (R41), `State.systemReset` (R40). -/

namespace Sys2Proof.Machine

/-! The frame buffer (10_state.md R34, R35; 20_memory.md R50 to R52). -/

/-- The indices of the frame-buffer space: `2 ^ LEN_BITS` (R35). -/
def fbSize (c : Cfg) : Nat := 2 ^ c.lenBits

/-- The byte the Host has written at an index, if it has. -/
def Memory.read : Memory → Nat → Option Byte
  | [], _ => none
  | (i, b) :: rest, a => if a = i then some b else Memory.read rest a

/-- Write one byte, keeping the indices rising. -/
def Memory.write : Memory → Nat → Byte → Memory
  | [], a, v => [(a, v)]
  | (i, b) :: rest, a, v =>
    if a < i then (a, v) :: (i, b) :: rest
    else if a = i then (a, v) :: rest
    else (i, b) :: Memory.write rest a v

/-- The buffer that holds a byte sequence from index `i` on. -/
def Memory.ofBytesFrom : Nat → List Byte → Memory
  | _, [] => []
  | i, b :: rest => (i, b) :: Memory.ofBytesFrom (i + 1) rest

/-- The buffer FB := bytes, as far as an index space of `size` indices reaches. -/
def Memory.ofBytes (size : Nat) (bytes : List Byte) : Memory := Memory.ofBytesFrom 0 (bytes.take size)

/-- The canonical form: indices strictly rising from `lo` on, all inside the index space. -/
def Memory.wfFrom (size : Nat) : Nat → Memory → Bool
  | _, [] => true
  | lo, (i, _) :: rest => decide (lo ≤ i ∧ i < size) && Memory.wfFrom size (i + 1) rest

/-- The canonical form of a frame buffer of `size` indices. An unlisted index reads as no written byte, so no listed
entry equals it. -/
def Memory.wf (size : Nat) (m : Memory) : Bool := Memory.wfFrom size 0 m

/-- The read primitive `FB[i]` (20_memory.md R52): the byte at index `i` at this moment; where the Host has written
none, its free value (log entry 4). -/
def State.fbByte (s : State) (i : Nat) : Byte := (Memory.read s.fb i).getD (Config.unwrittenByte s.fbGen i)

/-- The first `n` bytes of FB: the sequence `FB[0..n-1]` (R51). -/
def State.fbBytes (s : State) (n : Nat) : List Byte := (List.range n).map s.fbByte

/-! Time. -/

/-- `emit(PIN, k)`: `k` cycles at the pin's level (00_scope.md R10), with OE as it is (10_state.md R33). -/
def State.emit (s : State) (k : Nat) : State :=
  { s with trace := s.trace.push s.pin k, oeTrace := s.oeTrace.push s.oe k, now := s.now + k }

/-- A command or a micro-operation runs: with OE = 0 the observation of the run is lost (45_line_observation.md R186;
log entry 10). -/
def LineStatus.use : (oe : Bool) → LineStatus → LineStatus
  | true, .fresh | true, .driven => .driven
  | true, .lost | false, _ => .lost

/-- A micro-operation occupies its `k` cycles before its writes commit (R10). -/
def State.spend (s : State) (k : Nat) : State :=
  { s.emit k with line := s.line.use s.oe }

/-! Writes of the registers. -/

/-- `PHASE <- p` (10_state.md R22). -/
def State.goto (s : State) (p : PhaseCode) : State := { s with phase := p }

/-- The write primitive `PIN <- v` (20_memory.md R55). -/
def State.drive (s : State) (v : Level) : State := { s with pin := v }

/-- `LEN <- n ; IDX <- 0 ; PHASE <- ENTER` (40_transmit.md R101); LEN has LEN_BITS bits. -/
def State.acceptTransmit (s : State) (n : Nat) : State :=
  { s with len := n % 2 ^ s.cfg.lenBits, idx := 0, phase := Phase.enter, line := s.line.use s.oe }

/-- `PHASE <- HOLDR` (42_latch.md R141). -/
def State.acceptLatch (s : State) : State := { s with phase := Phase.holdr, line := s.line.use s.oe }

/-- `IE_SAVED <- IE ; IE <- 0`, one atomic read-modify-write (41_critical_section.md R131). -/
def State.acquire (s : State) : State := { s with ieSaved := s.ie, ie := false }

/-- `IE <- IE_SAVED` (R132). -/
def State.release (s : State) : State := { s with ie := s.ieSaved }

/-- `SHREG <- b ; BITCNT <- 8` (40_transmit.md R103). -/
def State.loadShift (s : State) (b : Byte) : State := { s with shreg := b, bitcnt := 8#4 }

/-- `SHREG <- (SHREG << 1)[7:0] ; BITCNT <- BITCNT - 1` (R110). -/
def State.shiftOut (s : State) : State := { s with shreg := s.shreg <<< 1, bitcnt := s.bitcnt - 1#4 }

/-- `IDX + 1` in LEN_BITS bits (R110, 43_timing_profile.md R159 (3); log entry 20). -/
def State.nextIdx (s : State) : Nat := (s.idx + 1) % 2 ^ s.cfg.lenBits

/-- `IDX <- IDX + 1` (R110). -/
def State.advance (s : State) : State := { s with idx := s.nextIdx }

/-! The steps of the environment. -/

/-- `Preempt(k)`: `k` cycles pass with the pin at its level, and no register of the block changes (60_exceptions.md
R193, R199). -/
def State.steal (s : State) (k : Nat) : State := s.emit k

/-- `Idle(k)` (10_state.md R41 (a)). -/
def State.idleFor (s : State) (k : Nat) : State := s.emit k

/-- OE := v: cleared after the first command, the observation of the run is lost (R223 P_OE; log entry 10). -/
def LineStatus.afterOe : (v : Bool) → LineStatus → LineStatus
  | false, .driven => .lost
  | false, .fresh => .fresh
  | false, .lost => .lost
  | true, status => status

/-- HostWrite FB := bytes, in zero time (R41 (b)); indices beyond the sequence hold no written byte. -/
def State.writeFb (s : State) (bytes : List Byte) : State :=
  { s with fb := Memory.ofBytes (fbSize s.cfg) bytes, fbGen := s.fbGen + 1 }

/-- HostWrite of one byte of FB (R41 (b)); outside the index space there is no byte to write (R35; log entry 4). -/
def State.writeByte (s : State) (i : Nat) (b : Byte) : State :=
  { s with fb := if i < fbSize s.cfg then Memory.write s.fb i b else s.fb }

/-- HostWrite OE := v (R33, R41 (b)). -/
def State.writeOe (s : State) (v : Bool) : State := { s with oe := v, line := s.line.afterOe v }

/-- HostWrite IE := v (R29, R41 (b)). -/
def State.writeIe (s : State) (v : Bool) : State := { s with ie := v }

/-- The system reset (R40, R198 (1)): the whole system, Host and flag included; the inputs still to come remain to come
(log entry 9). -/
def State.systemReset (s : State) : State :=
  State.afterReset s.cfg (s.resets + 1) (s.fbGen + 1) s.host s.preemptor s.rst

/-! The inputs. -/

/-- The Host's actions still to come. -/
def State.setHost (s : State) (h : List HostStep) : State := { s with host := h }

/-- The Preemptor's requests still to come. -/
def State.setPreemptor (s : State) (p : List Interrupt) : State := { s with preemptor := p }

/-- The levels of `rst` still to come. -/
def State.setRst (s : State) (r : List Bool) : State := { s with rst := r }

end Sys2Proof.Machine
end

