-- ==== Sys2Proof/Machine/Operands.lean ====
section
/-! DEFINITION. The operand forms of the micro-operations: the current bit, the indexed byte, the tests that choose a
successor (30_encoding.md R78, 40_transmit.md R121, 43_timing_profile.md R159). -/

namespace Sys2Proof.Machine

/-- "the current bit": SHREG[7] (30_encoding.md R78 (a)). -/
def State.currentBit (s : State) : Bool := s.shreg.getLsbD 7

/-- The load form "frame-buffer index": effective index IDX, one byte (40_transmit.md R121). -/
def State.indexedByte (s : State) : Byte := s.fbByte s.idx

/-- The test of ENTER, `LEN > 0`, unsigned (41_critical_section.md R131, R159 (4)). -/
def State.hasBytes (s : State) : Bool := decide (0 < s.len)

/-- The test of NEXT, `BITCNT - 1 ≠ 0` (40_transmit.md R110, R159 (4)). -/
def State.bitsRemain (s : State) : Bool := decide (s.bitcnt - 1#4 ≠ 0#4)

/-- The test of NEXT, `IDX + 1 < LEN`, unsigned (R110, R159 (4)). -/
def State.bytesRemain (s : State) : Bool := decide (s.nextIdx < s.len)

/-- Where ENTER goes (10_state.md R22). -/
def State.afterEnter (s : State) : PhaseCode := if s.hasBytes then Phase.loadb else Phase.exit

/-- Where NEXT goes at the end of a byte (R22). -/
def State.afterByte (s : State) : PhaseCode := if s.bytesRemain then Phase.loadb else Phase.exit

/-- The cycles of an operation on this configuration (70_reset_and_hazards.md R240). -/
def State.cost (s : State) (i : Instr) : Nat := s.cfg.cost i

end Sys2Proof.Machine
end

