-- ==== Sys2Proof/Machine/Flags.lean ====
section
/-! DEFINITION. The flags: COND's write of PIN, the derived flags BUSY and MODE (10_state.md R28 to R30), and the ports as
views of State (R36). -/

namespace Sys2Proof.Machine

/-- What COND leaves in PIN: low when the current bit is 0, as it is when the bit is 1 (40_transmit.md R106). -/
def State.condPin (s : State) : Level := if s.currentBit then s.pin else false

/-- BUSY: a command is in progress (10_state.md R30). -/
def State.busy (s : State) : Bool := decide (s.phase ≠ Phase.idle)

/-- The source's state machine of two states (R30). -/
inductive Mode where
  | idle
  | transmitting
deriving DecidableEq, Repr

/-- MODE of a code of PHASE: Transmitting from ENTER to EXIT; the latch hold counts as Idle (R30). R30 gives no MODE for
the unreachable codes 12 to 15; that it is Idle there is a DESIGN CHOICE (log entry 26). -/
def modeOf (p : PhaseCode) : Mode :=
  if 1 ≤ p.toNat ∧ p.toNat ≤ 10 then .transmitting else .idle

/-- MODE (R30). -/
def State.mode (s : State) : Mode := modeOf s.phase

/-! The ports that the state drives (R36). -/

/-- `cmd_ready`: 1 exactly when PHASE = IDLE. -/
def State.cmdReady (s : State) : Bool := decide (s.phase = Phase.idle)

/-- `cmd_word` and `cmd_valid`: the word the Host presents, if it presents one. -/
def State.cmdWord (s : State) : Option Nat :=
  match s.host with
  | .command w :: _ => some w
  | _ => none

/-- `fb_index`: IDX. -/
def State.fbIndex (s : State) : Nat := s.idx

/-- `fb_data`: FB[fb_index], with no delay. -/
def State.fbData (s : State) : Byte := s.indexedByte

/-- `ie_q`: IE. -/
def State.ieQ (s : State) : Bool := s.ie

/-- `ie_we`: the strobe with which ENTER and EXIT write IE. -/
def State.ieWe (s : State) : Bool := decide (s.phase = Phase.enter ∨ s.phase = Phase.exit)

/-- `ie_d`: the value with which they do: 0 for ENTER, IE_SAVED for EXIT. R36 gives it no value while `ie_we` is 0; that
it is 0 then is a DESIGN CHOICE (log entry 25). -/
def State.ieD (s : State) : Bool := if s.phase = Phase.exit then s.ieSaved else false

/-- `dout`: PIN, to the line. -/
def State.dout (s : State) : Level := s.pin

end Sys2Proof.Machine
end

