-- ==== Sys2Proof/Machine/Cell.lean ====
section
/-! DEFINITION. The eight micro-operations that send the cells (40_transmit.md R103 to R110). Each occupies its cycles at
the level PIN had when it started, then commits its writes (00_scope.md R10). -/

namespace Sys2Proof.Machine

/-- LOADB, R103: no cycles; `SHREG <- FB[IDX] ; BITCNT <- 8 ; PHASE <- RISE`. -/
def execLoadb (s : State) : Host.Outcome State Fault Refusal :=
  .next (((s.spend (s.cost .loadb)).loadShift s.indexedByte).goto Phase.rise)

/-- RISE, R104: C_RISE cycles; `PIN <- 1 ; PHASE <- HOLDB`. -/
def execRise (s : State) : Host.Outcome State Fault Refusal :=
  .next (((s.spend (s.cost .rise)).drive true).goto Phase.holdb)

/-- HOLDB, R105: BASE cycles; `PHASE <- COND`. -/
def execHoldb (s : State) : Host.Outcome State Fault Refusal :=
  .next ((s.spend (s.cost .holdb)).goto Phase.cond)

/-- COND, R106: C_COND cycles; `PIN <- 0` if the current bit is 0; `PHASE <- HOLDD`. -/
def execCond (s : State) : Host.Outcome State Fault Refusal :=
  .next (((s.spend (s.cost .cond)).drive s.condPin).goto Phase.holdd)

/-- HOLDD, R107: DELTA cycles; `PHASE <- FALL`. -/
def execHoldd (s : State) : Host.Outcome State Fault Refusal :=
  .next ((s.spend (s.cost .holdd)).goto Phase.fall)

/-- FALL, R108: C_FALL cycles; `PIN <- 0 ; PHASE <- HOLDF`. -/
def execFall (s : State) : Host.Outcome State Fault Refusal :=
  .next (((s.spend (s.cost .fall)).drive false).goto Phase.holdf)

/-- HOLDF, R109: FINAL cycles; `PHASE <- NEXT`. -/
def execHoldf (s : State) : Host.Outcome State Fault Refusal :=
  .next ((s.spend (s.cost .holdf)).goto Phase.next)

/-- NEXT, R110: C_LOOP cycles; SHREG shifts, BITCNT steps down; to RISE while bits remain, else IDX steps up, to LOADB
while bytes remain, else to EXIT. -/
def execNext (s : State) : Host.Outcome State Fault Refusal :=
  if s.bitsRemain then .next ((s.spend (s.cost .next)).shiftOut.goto Phase.rise)
  else .next ((s.spend (s.cost .next)).shiftOut.advance.goto s.afterByte)

end Sys2Proof.Machine
end

