-- ==== Sys2Proof/Machine/Command.lean ====
section
/-! DEFINITION. The two commands: their acceptance, in no cycles (40_transmit.md R101, 42_latch.md R141). What they then do
is the sequence of micro-operations that PHASE runs through. A command presented while BUSY is not accepted, and waits
with no effect (R119; log entry 13). -/

namespace Sys2Proof.Machine

/-- TRANSMIT(N), 40_transmit.md R101. -/
def execTransmit (n : Nat) (s : State) : Host.Outcome State Fault Refusal :=
  if s.busy then .next s else .next (s.acceptTransmit n)

/-- LATCH, 42_latch.md R141. -/
def execLatch (s : State) : Host.Outcome State Fault Refusal :=
  if s.busy then .next s else .next s.acceptLatch

end Sys2Proof.Machine
end

