-- ==== Sys2Proof/Machine/Guard.lean ====
section
/-! DEFINITION. The guard micro-operations ENTER and EXIT (41_critical_section.md). -/

namespace Sys2Proof.Machine

/-- ENTER, R131: C_ENTER cycles; then IE is saved and cleared, and PHASE goes to LOADB if LEN > 0, else to EXIT. -/
def execEnter (s : State) : Host.Outcome State Fault Refusal :=
  .next ((s.spend (s.cost .enter)).acquire.goto s.afterEnter)

/-- EXIT, R132: C_EXIT cycles; then IE is restored and PHASE goes to IDLE. -/
def execExit (s : State) : Host.Outcome State Fault Refusal :=
  .next ((s.spend (s.cost .exit)).release.goto Phase.idle)

end Sys2Proof.Machine
end

