-- ==== Sys2Proof/Machine/Latch.lean ====
section
/-! DEFINITION. The micro-operation HOLDR of LATCH (42_latch.md R142). -/

namespace Sys2Proof.Machine

/-- HOLDR, R142: T_LATCH cycles at the level PIN has; `PHASE <- IDLE`. It reads and writes neither PIN nor IE. -/
def execHoldr (s : State) : Host.Outcome State Fault Refusal :=
  .next ((s.spend (s.cost .holdr)).goto Phase.idle)

end Sys2Proof.Machine
end

