-- ==== Sys2Proof/Machine/Dispatch.lean ====
section
/-! DEFINITION. Which meaning runs for each instruction: one arm per constructor of Instr. -/

namespace Sys2Proof.Machine

def exec (i : Instr) (s : State) : Host.Outcome State Fault Refusal :=
  match i with
  -- commands: acceptance
  | .transmit n => Sys2Proof.Machine.execTransmit n s
  | .latch => Sys2Proof.Machine.execLatch s
  -- micro-operations
  | .enter => Sys2Proof.Machine.execEnter s
  | .loadb => Sys2Proof.Machine.execLoadb s
  | .rise => Sys2Proof.Machine.execRise s
  | .holdb => Sys2Proof.Machine.execHoldb s
  | .cond => Sys2Proof.Machine.execCond s
  | .holdd => Sys2Proof.Machine.execHoldd s
  | .fall => Sys2Proof.Machine.execFall s
  | .holdf => Sys2Proof.Machine.execHoldf s
  | .next => Sys2Proof.Machine.execNext s
  | .exit => Sys2Proof.Machine.execExit s
  | .holdr => Sys2Proof.Machine.execHoldr s

end Sys2Proof.Machine
end

