-- ==== Sys2Proof/Machine/Environment.lean ====
section
/-! DEFINITION. Which agent moves: the system reset, the Preemptor, the Host in IDLE, else the Encoder (00_scope.md R5,
10_state.md R41, 60_exceptions.md R193, R198). Step.lean calls it. -/

namespace Sys2Proof.Machine

/-- The Encoder's step: PHASE is the program counter (10_state.md R22); its code is decoded and run. A code that is no
operation is a fault (93_implementation_defined.md U14). -/
def encoderStep (s : State) : Host.Outcome State Fault Refusal :=
  match decodePhase s.phase with
  | .instr i => exec i s
  | .rejected _ => .fault (.illegalPhase s.phase)

/-- The Host's step in IDLE (10_state.md R41): its next action; a cycle of idle time when it has none (log entry 6). A
command word is decoded and accepted; a word that is none is refused (30_encoding.md R83; log entry 11). -/
def hostStep (s : State) : Host.Outcome State Fault Refusal :=
  match s.host with
  | [] => .next (s.idleFor 1)
  | .command w :: rest =>
    match decodeCommand s.cfg.lenBits w with
    | .instr i => exec i (s.setHost rest)
    | .rejected _ => .refused (.reservedCommand w)
  | .idle k :: rest => .next ((s.setHost rest).idleFor k)
  | .writeFb bytes :: rest => .next ((s.setHost rest).writeFb bytes)
  | .writeByte i b :: rest => .next ((s.setHost rest).writeByte i b)
  | .writeOe v :: rest => .next ((s.setHost rest).writeOe v)
  | .writeIe v :: rest => .next ((s.setHost rest).writeIe v)

/-- The Host moves in IDLE, the Encoder otherwise (R41, 40_transmit.md R119). -/
def runStep (s : State) : Host.Outcome State Fault Refusal :=
  if s.busy then encoderStep s else hostStep s

/-- The Preemptor's part of a step (60_exceptions.md R193, R196, R197): a maskable request is served exactly when IE = 1
and is held, at the head of the list, while IE = 0; a request of a source that ignores IE is served at once. -/
def preemptorStep (s : State) : Host.Outcome State Fault Refusal :=
  match s.preemptor with
  | [] => runStep s
  | .quiet :: rest => runStep (s.setPreemptor rest)
  | .preempt k :: rest => if s.ie then .next ((s.setPreemptor rest).steal k) else runStep s
  | .preemptNM k :: rest => .next ((s.setPreemptor rest).steal k)

/-- One step: `rst` beats everything (R198 (1)). -/
def systemStep (s : State) : Host.Outcome State Fault Refusal :=
  match s.rst with
  | [] => preemptorStep s
  | true :: rest => .next (s.setRst rest).systemReset
  | false :: rest => preemptorStep (s.setRst rest)

/-- Present a command word as the Host's next action, or put a micro-operation's code into PHASE (log entry 18). -/
def State.place (s : State) : Format → Nat → State
  | .cmd, w => { s with phase := Phase.idle, host := .command w :: s.host }
  | .uop, w => s.goto (BitVec.ofNat 4 w)

/-- The next step is the Encoder's or the Host's: no reset and no preemption at this point. -/
def State.undisturbed (s : State) : State :=
  { s with rst := false :: s.rst, preemptor := .quiet :: s.preemptor }

end Sys2Proof.Machine
end

