-- ==== Sys2Proof/Machine/Step.lean ====
section
/-! DEFINITION. One step of the machine, and where its next instruction stands. -/

namespace Sys2Proof.Machine

/-- One step of the system: the reset, the Preemptor, the Host in IDLE, else the Encoder. -/
def step (s : State) : Host.Outcome State Fault Refusal := systemStep s

/-- `s` with a word of spec/opcode_table.json where the next step takes its instruction from: a command word presented
by the Host in IDLE, a micro-operation's code in PHASE (log entry 18). -/
def State.withFetchWord (s : State) (nbits w : Nat) : State := (s.place (tableFormat nbits) w).undisturbed

end Sys2Proof.Machine
end

