-- ==== Sys2Proof/Machine/Wire.lean ====
section
/-! DEFINITION. The wire line code: bits of a byte, bytes of a pixel and of a frame, and the waveform of a cell, of a
TRANSMIT and of a LATCH (30_encoding.md R70 to R78, 40_transmit.md R111, R112). -/

namespace Sys2Proof.Machine

/-- The bits of a byte in the order sent, most significant first (R56, R73). -/
def bitsOf (b : Byte) : List Bool :=
  [b.getLsbD 7, b.getLsbD 6, b.getLsbD 5, b.getLsbD 4, b.getLsbD 3, b.getLsbD 2, b.getLsbD 1, b.getLsbD 0]

/-- `bits(B)`: the bits of a byte sequence in the order sent (R112). -/
def bitsOfBytes (bytes : List Byte) : List Bool := bytes.flatMap bitsOf

/-- `PixelBytes`: green, red, blue (R74). -/
def pixelBytes (p : Rgb) : List Byte := [p.g, p.r, p.b]

/-- `FrameBytes`: the pixels in wiring order (R75). -/
def frameBytes (ps : List Rgb) : List Byte := ps.flatMap pixelBytes

/-- `CellTrace(b)` as R111 lists it, before zero-length segments are dropped: lead, high, tail. -/
def cellTrace (c : Cfg) (b : Bool) : Trace :=
  [(false, c.cRise), (true, c.th b), (false, c.tcell - c.cRise - c.th b)]

/-- The level at offset `o` of a cell that carries `b`; none outside the cell (R71). -/
def cellLevel (c : Cfg) (b : Bool) (o : Nat) : Option Level :=
  if o < c.cRise then some false
  else if o < c.cRise + c.th b then some true
  else if o < c.tcell then some false
  else none

/-- `TransmitTrace(B)`: ENTER, the cells of the bits, EXIT (R112). -/
def transmitTrace (c : Cfg) (bytes : List Byte) : Trace :=
  (false, c.cEnter) :: ((bitsOfBytes bytes).flatMap (cellTrace c) ++ [(false, c.cExit)])

/-- The trace of a LATCH on a low line (42_latch.md R140, R142). -/
def latchTrace (c : Cfg) : Trace := [(false, c.tLatch)]

end Sys2Proof.Machine
end

