-- ==== Sys2Proof/Machine/Receiver.lean ====
section
/-! DEFINITION. What the receiver makes of the line: line frames, the reference decoder, RXBITS and LED, each a function
of TRACE (10_state.md R38, 45_line_observation.md R173 to R181). -/

namespace Sys2Proof.Machine

/-- A line frame (R173): its high runs, the low runs between two of them, and whether a closed reset gap follows. -/
structure LineFrame where
  highs : List Nat
  lows : List Nat
  latched : Bool
deriving DecidableEq, Repr

/-- Put a high run, and the low run after it that is no reset gap, before the frames that follow. -/
def joinFrames (h l : Nat) : List LineFrame → List LineFrame
  | [] => [⟨[h], [], false⟩]
  | f :: fs => { f with highs := h :: f.highs, lows := l :: f.lows } :: fs

/-- `LineFrames` over a list of runs: the high runs, split at every low run of at least `gap` cycles (R173). -/
def framesOfRuns (gap : Nat) : Trace → List LineFrame
  | [] => []
  | (false, _) :: rest => framesOfRuns gap rest
  | (true, h) :: [] => [⟨[h], [], false⟩]
  | (true, h) :: (true, h') :: rest => joinFrames h 0 (framesOfRuns gap ((true, h') :: rest))
  | (true, h) :: (false, l) :: rest =>
    if gap ≤ l then ⟨[h], [], true⟩ :: framesOfRuns gap rest
    else joinFrames h l (framesOfRuns gap rest)

/-- `LineFrames(TRACE)` (R173). -/
def lineFrames (c : Cfg) (t : Trace) : List LineFrame := framesOfRuns c.resetCyc (runs t)

/-- `DecodeBit(h)`: threshold at the symbol midpoint, ties to 0 (R174). -/
def decodeBit (c : Cfg) (h : Nat) : Bool := decide (c.th0 + c.th1 < 2 * h)

/-- The byte of eight bits, the first most significant (R175). -/
def byteOfBits (b7 b6 b5 b4 b3 b2 b1 b0 : Bool) : Byte :=
  BitVec.ofNat 8 (128 * b7.toNat + 64 * b6.toNat + 32 * b5.toNat + 16 * b4.toNat + 8 * b3.toNat + 4 * b2.toNat
    + 2 * b1.toNat + b0.toNat)

/-- Bytes from bits, eight at a time; bits left over form no byte (R175). -/
def bytesOfBits : List Bool → List Byte
  | b7 :: b6 :: b5 :: b4 :: b3 :: b2 :: b1 :: b0 :: rest =>
    byteOfBits b7 b6 b5 b4 b3 b2 b1 b0 :: bytesOfBits rest
  | _ => []

/-- The bits of a line frame. -/
def LineFrame.bits (c : Cfg) (f : LineFrame) : List Bool := f.highs.map (decodeBit c)

/-- `DecodeBytes(f)` (R175). -/
def decodeBytes (c : Cfg) (f : LineFrame) : List Byte := bytesOfBits (f.bits c)

/-- RXBITS as a function of TRACE: the bits of the last line frame while it is not latched (R176). -/
def rxBitsOf (c : Cfg) (t : Trace) : List Bool :=
  match (lineFrames c t).getLast? with
  | some f => if f.latched then [] else f.bits c
  | none => []

/-- Does a latched line frame of exactly 3 × NPIX bytes end somewhere in the trace (R180, U10)? -/
def latchedExact (c : Cfg) (t : Trace) : Bool :=
  (lineFrames c t).any (fun f => f.latched && decide ((decodeBytes c f).length = 3 * c.nPix))

/-- RXBITS: a free value before the first latch of a frame of the right length (10_state.md R40,
70_reset_and_hazards.md R222, U10; log entry 15), then R176's function of TRACE; none in a run that the observation
refuses (R186). DESIGN CHOICE (log entry 27): while the open frame holds a low run between TL0 and RESET_CYC, which the
Receiver may have taken for a gap (R178, U3), it is still R176's function, that is it reads continuation. -/
def State.rxBits (s : State) : Option (List Bool) :=
  match s.line with
  | .lost => none
  | .fresh | .driven =>
    some (if latchedExact s.cfg s.trace then rxBitsOf s.cfg s.trace else Config.freeRxBits s.resets s.now)

/-- The low runs inside a frame that the receiver may take for a gap or not: above TL0, below RESET_CYC (R178 (b), U3). -/
def LineFrame.openLows (c : Cfg) (f : LineFrame) : Nat := f.lows.countP (fun l => decide (c.tl0 < l))

/-- Is every high run of the frame a symbol (R178 (a), U4)? -/
def LineFrame.symbolsOnly (c : Cfg) (f : LineFrame) : Bool :=
  f.highs.all (fun h => decide (h = c.th0 ∨ h = c.th1))

/-- The colours of a byte sequence in channel order green, red, blue (R180). -/
def coloursOf : List Byte → List Rgb
  | g :: r :: b :: rest => ⟨r, g, b⟩ :: coloursOf rest
  | _ => []

/-- What the string shows: the colours of the last latch, or a draw. -/
inductive LedView where
  | colours (cs : List Rgb)
  | draw (d : LedDraw)
deriving DecidableEq, Repr

/-- What line frame number `n` makes of the string that showed `v` (R180, R181, U3, U4, U5; log entry 16). A latched
frame of whole symbols, of no run whose reading is open and of exactly 3 × NPIX bytes sets the colours; any other
latched frame makes them a draw; a frame not latched leaves them, unless a run in it may have been read as a gap. -/
def LineFrame.show (c : Cfg) (n : Nat) (f : LineFrame) (v : LedView) : LedView :=
  if f.latched then
    if f.symbolsOnly c ∧ f.openLows c = 0 ∧ (decodeBytes c f).length = 3 * c.nPix then
      .colours (coloursOf (decodeBytes c f))
    else .draw (.badFrame n)
  else if f.openLows c = 0 then v
  else .draw (.openRun n (f.openLows c))

/-- Show the line frames in order, the first of them number `n`. -/
def showFrames (c : Cfg) : (n : Nat) → LedView → List LineFrame → LedView
  | _, v, [] => v
  | n, v, f :: fs => showFrames c (n + 1) (f.show c n v) fs

/-- What the string shows, from the line: a draw before the first latch (R185) and in a run whose observation is
undefined (R186). -/
def State.ledView (s : State) : LedView :=
  match s.line with
  | .lost => .draw (.undriven s.now)
  | .fresh | .driven => showFrames s.cfg 0 (.draw .powerUp) (lineFrames s.cfg s.trace)

/-- `LED[k]`, for `k < NPIX` (R180); there is no device `k` beyond. A draw is the free value of its occasion. -/
def State.led (s : State) (k : Nat) : Option Rgb :=
  if k < s.cfg.nPix then
    match s.ledView with
    | .colours cs => cs[k]?
    | .draw d => some (Config.freeLed s.resets d k)
  else none

end Sys2Proof.Machine
end

