-- ==== Sys2Proof/Machine/Program.lean ====
section
/-! DEFINITION. The text syntax of programs and its pseudo-instructions SHOW and FILL (30_encoding.md R88 to R90): lines,
their expansion to the Host's actions, and a reader of the text. -/

namespace Sys2Proof.Machine

/-- A line of a program (R88 to R90). -/
inductive Line where
  /-- `TRANSMIT b0 b1 ...`: HostWrite FB := the bytes, then the command TRANSMIT(N). -/
  | transmit (bytes : List Byte)
  /-- `LATCH`. -/
  | latch
  /-- `IDLE k`, a directive. -/
  | idle (k : Nat)
  /-- `SETIE v`, a directive. -/
  | setIe (v : Bool)
  /-- `SETOE v`, a directive. -/
  | setOe (v : Bool)
  /-- `SHOW (R,G,B) ...`, a pseudo-instruction (R89). -/
  | show (pixels : List Rgb)
  /-- `FILL M (R,G,B)`, a pseudo-instruction (R90). -/
  | fill (m : Nat) (p : Rgb)
deriving DecidableEq, Repr

/-- The Host's presentation of a command, on a port of `2 + LEN_BITS` bits (R80). -/
def present (lenBits : Nat) (i : Instr) : HostStep := .command (encode lenBits i)

/-- HostWrite FB := bytes, then TRANSMIT of them (R88). -/
def transmitSteps (lenBits : Nat) (bytes : List Byte) : List HostStep :=
  [.writeFb bytes, present lenBits (.transmit bytes.length)]

/-- SHOW: TRANSMIT of FrameBytes, then LATCH (R89). -/
def showSteps (lenBits : Nat) (pixels : List Rgb) : List HostStep :=
  transmitSteps lenBits (frameBytes pixels) ++ [present lenBits .latch]

/-- What a line makes the Host do (R88 to R90). -/
def Line.steps (lenBits : Nat) : Line → List HostStep
  | .transmit bytes => transmitSteps lenBits bytes
  | .latch => [present lenBits .latch]
  | .idle k => [.idle k]
  | .setIe v => [.writeIe v]
  | .setOe v => [.writeOe v]
  | .show pixels => showSteps lenBits pixels
  | .fill m p => showSteps lenBits (List.replicate m p)

/-- A program is a list of lines, run in order (R88). -/
def programSteps (lenBits : Nat) (lines : List Line) : List HostStep := lines.flatMap (Line.steps lenBits)

/-- The command words among the Host's actions: the encoding of a program, directives having no word (R88). -/
def commandWords : List HostStep → List Nat
  | [] => []
  | .command w :: rest => w :: commandWords rest
  | .idle _ :: rest | .writeFb _ :: rest | .writeByte _ _ :: rest | .writeOe _ :: rest | .writeIe _ :: rest =>
    commandWords rest

/-! Reading the text (log entry 22). -/

/-- The value of a hexadecimal digit, either case. -/
def hexDigit (c : Char) : Option Nat :=
  if '0' ≤ c ∧ c ≤ '9' then some (c.toNat - 48)
  else if 'A' ≤ c ∧ c ≤ 'F' then some (c.toNat - 55)
  else if 'a' ≤ c ∧ c ≤ 'f' then some (c.toNat - 87)
  else none

/-- A byte of two hexadecimal digits. -/
def readByte (hi lo : Char) : Option Byte :=
  match hexDigit hi, hexDigit lo with
  | some h, some l => some (BitVec.ofNat 8 (16 * h + l))
  | _, _ => none

/-- A decimal natural, given what has been read of it. -/
def readDecimalFrom : Nat → List Char → Option Nat
  | n, [] => some n
  | n, c :: cs => if '0' ≤ c ∧ c ≤ '9' then readDecimalFrom (10 * n + (c.toNat - 48)) cs else none

/-- A decimal natural of at least one digit. -/
def readDecimal : List Char → Option Nat
  | [] => none
  | cs => readDecimalFrom 0 cs

/-- A bit, `0` or `1`. -/
def readBit : List Char → Option Bool
  | ['0'] => some false
  | ['1'] => some true
  | _ => none

/-- A pixel `(R,G,B)` of two hexadecimal digits a component. -/
def readPixel : List Char → Option Rgb
  | ['(', r1, r0, ',', g1, g0, ',', b1, b0, ')'] =>
    match readByte r1 r0, readByte g1 g0, readByte b1 b0 with
    | some r, some g, some b => some ⟨r, g, b⟩
    | _, _, _ => none
  | _ => none

/-- A byte token. -/
def readByteToken : List Char → Option Byte
  | [hi, lo] => readByte hi lo
  | _ => none

/-- Read every token of a list, or fail. -/
def readAll {α : Type} (read : List Char → Option α) : List (List Char) → Option (List α)
  | [] => some []
  | t :: ts =>
    match read t, readAll read ts with
    | some a, some as => some (a :: as)
    | _, _ => none

/-- The line up to its comment, which a `;` starts (R88). -/
def dropComment (cs : List Char) : List Char := cs.takeWhile (· ≠ ';')

/-- Put a character before the tokens that follow it; white space ends a token. -/
def joinToken (c : Char) (tokens : List (List Char)) : List (List Char) :=
  if c.isWhitespace then [] :: tokens
  else
    match tokens with
    | [] => [[c]]
    | t :: ts => (c :: t) :: ts

/-- The tokens of a line, separated by white space. -/
def tokensOf (cs : List Char) : List (List Char) := (cs.foldr joinToken [[]]).filter (· ≠ [])

/-- The line that a list of tokens spells (R88 to R90). -/
def readTokens : List (List Char) → Option Line
  | ['T', 'R', 'A', 'N', 'S', 'M', 'I', 'T'] :: ts => (readAll readByteToken ts).map .transmit
  | [['L', 'A', 'T', 'C', 'H']] => some .latch
  | [['I', 'D', 'L', 'E'], k] => (readDecimal k).map .idle
  | [['S', 'E', 'T', 'I', 'E'], v] => (readBit v).map .setIe
  | [['S', 'E', 'T', 'O', 'E'], v] => (readBit v).map .setOe
  | ['S', 'H', 'O', 'W'] :: ts => (readAll readPixel ts).map .show
  | [['F', 'I', 'L', 'L'], m, p] =>
    match readDecimal m, readPixel p with
    | some m, some p => some (.fill m p)
    | _, _ => none
  | _ => none

/-- Is the line one the assembler takes: fewer than `2 ^ LEN_BITS` bytes in a TRANSMIT, that is at most 65535
(93_implementation_defined.md U15), at least one cycle in an IDLE (R88). -/
def Line.wf (lenBits : Nat) : Line → Bool
  | .transmit bytes => decide (bytes.length < 2 ^ lenBits)
  | .latch => true
  | .idle k => decide (1 ≤ k)
  | .setIe _ => true
  | .setOe _ => true
  | .show pixels => decide (3 * pixels.length < 2 ^ lenBits)
  | .fill m _ => decide (3 * m < 2 ^ lenBits)

/-- Put a character before the lines of text that follow it. -/
def joinLine (c : Char) (lines : List (List Char)) : List (List Char) :=
  if c = '\n' then [] :: lines
  else
    match lines with
    | [] => [[c]]
    | l :: ls => (c :: l) :: ls

/-- The lines of a text. -/
def splitLines (text : List Char) : List (List Char) := text.foldr joinLine [[]]

/-- Read the lines of a program; an empty line is none, an ill-formed one is refused. -/
def readLines (lenBits : Nat) : List (List Char) → Option (List Line)
  | [] => some []
  | cs :: rest =>
    match tokensOf (dropComment cs) with
    | [] => readLines lenBits rest
    | t :: ts =>
      match readTokens (t :: ts), readLines lenBits rest with
      | some l, some ls => if l.wf lenBits then some (l :: ls) else none
      | _, _ => none

/-- Read a program in the text syntax of R88. -/
def readProgram (lenBits : Nat) (text : List Char) : Option (List Line) := readLines lenBits (splitLines text)

end Sys2Proof.Machine
end

