-- ==== Sys2Proof/WellFormed.lean ====
section
/-! DEFINITION. What a well-formed term is: `Instr.wf`, in Decode.lean beside the encoder, for instructions; here the
configuration and the inputs. -/

namespace Sys2Proof

/-- A configuration has a clock, F_HZ > 0 (00_scope.md R6), and a length field, LEN_BITS ≥ 1 (92_eei_decisions.md D4). -/
def Cfg.wf (c : Cfg) : Bool := decide (0 < c.fHz ∧ 1 ≤ c.lenBits)

namespace Machine

/-- Idle(k) has `k ≥ 1` (10_state.md R41 (a)); a word that is presented is a command (30_encoding.md R83); what is
written to FB lies in its index space (10_state.md R35). -/
def HostStep.wf (c : Cfg) : HostStep → Bool
  | .command w => (decodeCommand c.lenBits w).toOption.isSome
  | .idle k => decide (1 ≤ k)
  | .writeFb bytes => decide (bytes.length ≤ fbSize c)
  | .writeByte i _ => decide (i < fbSize c)
  | .writeOe _ | .writeIe _ => true

/-- Preempt(k) has `k ≥ 1` (60_exceptions.md R193). -/
def Interrupt.wf : Interrupt → Bool
  | .quiet => true
  | .preempt k | .preemptNM k => decide (1 ≤ k)

/-- A program the machine takes: every line well formed (R88, U15). -/
def programWf (lenBits : Nat) (lines : List Line) : Bool := lines.all (Line.wf lenBits)

/-- The environment of a state is one the spec describes. -/
def State.inputsWf (s : State) : Bool := s.host.all (HostStep.wf s.cfg) && s.preemptor.all Interrupt.wf

end Machine

end Sys2Proof
end

