-- ==== Sys2Proof/Safety.lean ====
section
/-! DEFINITION. What claims are stated in: the invariant of 10_state.md R42, the premises of 70_reset_and_hazards.md R223,
and the end of a run (45_line_observation.md R184). -/

namespace Sys2Proof.Machine

/-! The parts of R42. -/

/-- R42 (a): PHASE holds one of the twelve codes. -/
def State.phaseLegal (s : State) : Prop := s.phase.toNat ≤ 11

/-- R42 (b): PIN by PHASE. -/
def State.pinByPhase (s : State) : Prop :=
  (s.phase ∈ [Phase.idle, Phase.enter, Phase.loadb, Phase.rise, Phase.holdf, Phase.next, Phase.exit, Phase.holdr] →
    s.pin = false) ∧
  (s.phase ∈ [Phase.holdb, Phase.cond] → s.pin = true) ∧
  (s.phase ∈ [Phase.holdd, Phase.fall] → s.pin = s.shreg.getLsbD 7)

/-- R42 (c): IE = 0 from LOADB to EXIT. -/
def State.ieByPhase (s : State) : Prop := 2 ≤ s.phase.toNat ∧ s.phase.toNat ≤ 10 → s.ie = false

/-- R42 (d): the position from RISE to NEXT. -/
def State.positionByPhase (s : State) : Prop :=
  3 ≤ s.phase.toNat ∧ s.phase.toNat ≤ 9 →
    1 ≤ s.bitcnt.toNat ∧ s.bitcnt.toNat ≤ 8 ∧ s.idx < s.len

/-- R42, (a) to (d). -/
def State.R42 (s : State) : Prop := s.phaseLegal ∧ s.pinByPhase ∧ s.ieByPhase ∧ s.positionByPhase

/-- What makes R42 inductive: IDX is 0 in ENTER and below LEN in LOADB (the ground of 20_memory.md R52), and never above
LEN (R24). -/
def State.indexByPhase (s : State) : Prop :=
  (s.phase = Phase.enter → s.idx = 0) ∧ (s.phase = Phase.loadb → s.idx < s.len) ∧ s.idx ≤ s.len

/-- The invariant of the machine: R42 and what makes it inductive. -/
def State.Inv (s : State) : Prop := s.R42 ∧ s.indexByPhase

/-- The history of the line is whole: NOW is the cycles of TRACE (10_state.md R37), and OE is recorded for each. -/
def State.historyWhole (s : State) : Prop := s.now = s.trace.total ∧ s.now = s.oeTrace.total

/-- The registers fit their widths (10_state.md R23, R24), the history is whole, no segment of it is empty (00_scope.md
R10), and FB is in its canonical form. -/
def State.Tidy (s : State) : Prop :=
  (s.len < 2 ^ s.cfg.lenBits ∧ s.idx < 2 ^ s.cfg.lenBits) ∧ s.historyWhole ∧
  (∀ seg ∈ s.trace, seg.2 ≠ 0) ∧ (∀ seg ∈ s.oeTrace, seg.2 ≠ 0) ∧ Memory.wf (fbSize s.cfg) s.fb = true

/-- What the ghost `line` says of OE: a run is driven only while OE = 1, and a command in progress is driven or lost
(45_line_observation.md R186; log entry 10). -/
def State.lineAgrees (s : State) : Prop :=
  match s.line with
  | .fresh => s.phase = Phase.idle
  | .driven => s.oe = true
  | .lost => True

/-! Runs. -/

/-- `k` steps from a state, stopping at the first fault or refusal: the host's `Host.Core.run` of this machine. -/
def runSteps (k : Nat) (s : State) : Host.Outcome State Fault Refusal := Host.Core.run Sys2Proof.core k s

/-! The premises of R223, each a named predicate. The first group are about a launch: a state and the inputs it still
holds. The second group are about the environment's steps, and hold of this model's by construction (log entry 23). -/

/-- No reset comes in the run. -/
def State.noReset (s : State) : Prop := ∀ r ∈ s.rst, r = false

/-- The Host's actions up to its last command: those before the end of the run (45_line_observation.md R184). -/
def commandPart : List HostStep → List HostStep
  | [] => []
  | h :: rest => if commandWords (h :: rest) = [] then [] else h :: commandPart rest

/-- OE, which is `oe` now, is 1 from before the first command that is still to come, and is not cleared after it. -/
def oeHeld : (oe : Bool) → List HostStep → Bool
  | _, [] => true
  | oe, .command _ :: rest => oe && rest.all (fun h => decide (h ≠ .writeOe false))
  | _, .writeOe v :: rest => oeHeld v rest
  | oe, .idle _ :: rest | oe, .writeFb _ :: rest | oe, .writeByte _ _ :: rest | oe, .writeIe _ :: rest =>
    oeHeld oe rest

/-- P_OE: OE = 1 from before the first command to the end of the run, which the directives behind the last command come
after (R184). The Host may set OE before its first command; a command in progress is one; a reset, which leaves OE open,
ends the run. -/
def State.P_OE (s : State) : Prop :=
  s.noReset ∧ oeHeld s.oe (commandPart s.host) = true ∧
  (s.phase ≠ Phase.idle ∨ s.line ≠ .fresh → s.oe = true ∧ ∀ h ∈ commandPart s.host, h ≠ .writeOe false)

/-- P_NoUnmaskable: no source preempts while IE = 0 (60_exceptions.md R196). -/
def State.P_NoUnmaskable (s : State) : Prop := ∀ k, Interrupt.preemptNM k ∉ s.preemptor

/-- P_TimingValid. -/
def State.P_TimingValid (s : State) : Prop := s.cfg.TimingValid

/-- The frames that the Host's actions to come present, from buffer `s.fb` on: for each TRANSMIT(3 × NPIX) the bytes
that FB then holds. None if a TRANSMIT has another length, or if a frame is not followed by its LATCH before the next
TRANSMIT or the end (`sent` is the frame that still waits for it). Idle time, Host writes and further LATCHes may stand
between. -/
def framesPresented : (s : State) → (sent : Option (List Byte)) → List HostStep → Option (List (List Byte))
  | _, none, [] => some []
  | _, some _, [] => none
  | s, sent, .command w :: rest =>
    match decodeCommand s.cfg.lenBits w, sent with
    | .instr (.transmit n), none =>
      if n = 3 * s.cfg.nPix then framesPresented s (some (s.fbBytes n)) rest else none
    | .instr .latch, none => framesPresented s none rest
    | .instr .latch, some bytes => (framesPresented s none rest).map (bytes :: ·)
    | _, _ => none
  | s, sent, .writeFb bytes :: rest => framesPresented (s.writeFb bytes) sent rest
  | s, sent, .writeByte i b :: rest => framesPresented (s.writeByte i b) sent rest
  | s, sent, .idle _ :: rest | s, sent, .writeOe _ :: rest | s, sent, .writeIe _ :: rest =>
    framesPresented s sent rest

/-- P_HostFrame: each frame the Host presents is TRANSMIT(3 × NPIX) of FrameBytes of the pixels, then LATCH; `frames` are
the pixels of each, in order. -/
def State.P_HostFrame (s : State) (frames : List (List Rgb)) : Prop :=
  framesPresented s none s.host = some (frames.map frameBytes) ∧ ∀ pixels ∈ frames, pixels.length = s.cfg.nPix

/-- P_PinExclusive: nothing but the Encoder's RISE, COND and FALL writes PIN (R231); a reset clears it. -/
def P_PinExclusive : Prop := ∀ s t : State, step s = .next t → s.rst.head? ≠ some true → t.pin ≠ s.pin →
  s.phase = Phase.rise ∨ s.phase = Phase.cond ∨ s.phase = Phase.fall

/-- P_FBStable: FB is not written between acceptance and EXIT (20_memory.md R53). -/
def P_FBStable : Prop := ∀ s t : State, step s = .next t → s.rst.head? ≠ some true → s.phase ≠ Phase.idle →
  t.fb = s.fb ∧ t.fbGen = s.fbGen

/-- P_HandlerKeepsIE: a preemption, of a source that ignores IE too, returns with IE as it found it (60_exceptions.md
R195). -/
def P_HandlerKeepsIE : Prop := ∀ (s t : State) (k : Nat) (rest : List Interrupt), s.rst.head? ≠ some true →
  (s.preemptor = .preempt k :: rest ∧ s.ie = true) ∨ s.preemptor = .preemptNM k :: rest →
  step s = .next t → t.ie = s.ie

/-- P_SystemReset: `rst` resets the Host's bit and buffer and the flag together with the block (10_state.md R40). -/
def P_SystemReset : Prop := ∀ (s t : State) (rest : List Bool), s.rst = true :: rest → step s = .next t →
  t.phase = Phase.idle ∧ t.pin = false ∧ t.ie = s.cfg.ieReset ∧ t.oe = Config.freeOe t.resets ∧
  t.resets = s.resets + 1 ∧ t.fb = []

/-- No reset and no preemption comes at all: the environment is silent. -/
def State.silent (s : State) : Prop := s.rst = [] ∧ s.preemptor = []

/-- The Encoder or the Host makes the next step: no reset at this point, and no preemption that is served. -/
def State.undisturbedNow (s : State) : Prop :=
  s.rst.head? ≠ some true ∧
    match s.preemptor with
    | [] => True
    | .quiet :: _ => True
    | .preempt _ :: _ => s.ie = false
    | .preemptNM _ :: _ => False

/-- No preemption is served before ENTER commits, in a TRANSMIT accepted by the next step: IE is 0, or no request comes
at the two points before acceptance and before ENTER (40_transmit.md R112). -/
def State.quietUntilEnter (s : State) : Prop := s.ie = false ∨ ∀ x ∈ s.preemptor.take 2, x = .quiet

/-- The state in which the next step's instruction runs: the inputs of this point are used up; a held request stays. -/
def State.inputsUsed (s : State) : State :=
  { s with
    rst := s.rst.tail
    preemptor :=
      match s.preemptor with
      | .quiet :: rest => rest
      | p => p }

/-- A run has ended: every command has been accepted and PHASE = IDLE (45_line_observation.md R184). Directives may still
be to come. -/
def State.ended (s : State) : Prop := s.phase = Phase.idle ∧ commandWords s.host = []

/-- The first state of a run with a property: the `k`-th step from `s` reaches `t`, which has it, and no earlier one does
reach such a state. -/
def State.firstIn (s : State) (k : Nat) (P : State → Prop) (t : State) : Prop :=
  runSteps k s = .next t ∧ P t ∧ ∀ m u, m < k → runSteps m s = .next u → ¬ P u

/-- The first return to IDLE after the command that `s` presents, `rest` being the Host's actions behind it. Maskable
preemptions before, inside and after the command are among the steps. -/
def State.returnsIn (s : State) (k : Nat) (rest : List HostStep) (t : State) : Prop :=
  s.firstIn k (fun u => u.phase = Phase.idle ∧ u.host = rest) t

/-- The end of the run that `s` begins (R184). -/
def State.endsIn (s : State) (k : Nat) (t : State) : Prop := s.firstIn k State.ended t

/-- Is the action idle time? -/
def HostStep.isIdle : HostStep → Bool
  | .idle _ => true
  | .command _ | .writeFb _ | .writeByte _ _ | .writeOe _ | .writeIe _ => false

/-- The steps that an action of the Host takes without reset and preemption: for a TRANSMIT(N) its acceptance, ENTER,
57 for each byte and EXIT (40_transmit.md R102), for a LATCH its acceptance and HOLDR, for any other one. -/
def HostStep.steps (c : Cfg) : HostStep → Nat
  | .command w =>
    match decodeCommand c.lenBits w with
    | .instr (.transmit n) => 3 + 57 * n
    | _ => 2
  | .idle _ | .writeFb _ | .writeByte _ _ | .writeOe _ | .writeIe _ => 1

/-- The resets and the requests for a preemption that are still to come: the levels 1 of `rst`, and the entries of the
Preemptor's list that are not `quiet`. -/
def State.disturbances (s : State) : Nat := s.rst.count true + s.preemptor.countP (fun x => decide (x ≠ .quiet))

/-- The trace is empty or ends in a closed reset gap: where a new line frame begins (R179, R225). -/
def State.freshLine (s : State) : Prop := s.trace = [] ∨ endsInGap s.cfg.resetCyc s.trace = true

/-- No high run is open at the end of the trace that the first cell of a TRANSMIT could grow (R182). -/
def State.endsLow (s : State) : Prop :=
  (∀ h, (runs s.trace).getLast? ≠ some (true, h)) ∨ 1 ≤ s.cfg.cEnter + s.cfg.cRise

/-- The length of the low run the trace ends in, 0 if it ends high or is empty. -/
def State.tailLow (s : State) : Nat :=
  match (runs s.trace).getLast? with
  | some (false, l) => l
  | _ => 0

/-- Where the TRANSMIT in progress got the value of IE that it will restore: before ENTER commits it is IE itself, after
it is IE_SAVED (41_critical_section.md R134). -/
def State.restores (s : State) (v : Bool) : Prop :=
  (s.phase = Phase.enter → s.ie = v) ∧
  (2 ≤ s.phase.toNat ∧ s.phase.toNat ≤ 10 → s.ieSaved = v)

end Sys2Proof.Machine
end

