-- ==== Sys2Proof/Certificates/Slice0/Obligations.lean ====
section
/-! DEFINITION. The statements for the provers. Each docstring names the rule of spec/ it formalises. -/

open Sys2Proof Sys2Proof.Machine

/-! Decoding and the step. -/

/-- When PHASE holds the code of a micro-operation, or the Host presents a command word in IDLE, and no reset and no
preemption comes at this point, a step is exec of the decoded instruction (10_state.md R22, R41; log entries 6, 7, 9). -/
def Obligations.StepRunsTheDecodedInstruction : Prop :=
  (∀ (s : State) (i : Instr), s.undisturbedNow → s.busy = true → decodePhase s.phase = .instr i →
    step s = exec i s.inputsUsed) ∧
  (∀ (s : State) (w : Nat) (rest : List HostStep) (i : Instr), s.undisturbedNow → s.phase = Phase.idle →
    s.host = .command w :: rest → decodeCommand s.cfg.lenBits w = .instr i →
    step s = exec i { s.inputsUsed with host := rest })

/-- The word of any well-formed instruction, placed where the step fetches, is run by the very next step (the model's own
convention, log entry 18). -/
def Obligations.PlacedWordRunsNext : Prop :=
  ∀ (s : State) (i : Instr), i.wf s.cfg.lenBits = true →
    (i.format = .uop → step (s.withFetchWord 8 (encode s.cfg.lenBits i)) =
      exec i { s with phase := BitVec.ofNat 4 (encode s.cfg.lenBits i) }) ∧
    (i.format = .cmd → step (s.withFetchWord 24 (encode s.cfg.lenBits i)) = exec i { s with phase := Phase.idle })

/-- Words written out from 30_encoding.md R80, R82, R83, R85 decode to what they stand for (vectors E2 to E10). -/
def Obligations.WordsOfTheSpecDecode : Prop :=
  decodeTableWord 24 0x10024 = some (.transmit 36) ∧ decodeTableWord 24 0x1FFFF = some (.transmit 65535) ∧
  decodeTableWord 24 0x2ABCD = some .latch ∧ decodeTableWord 24 0x0FFFF = none ∧
  decodeTableWord 24 0x30000 = none ∧ decodeTableWord 8 0b0001 = some .enter ∧
  decodeTableWord 8 0b0010 = some .loadb ∧ decodeTableWord 8 0b0101 = some .cond ∧
  decodeTableWord 8 0b1001 = some .next ∧ decodeTableWord 8 0b1011 = some .holdr ∧
  decodeTableWord 8 0 = none ∧ decodeTableWord 8 0b1100 = none

/-- 30_encoding.md R92, whole, with LEN_BITS = 16: the decoder on every 18-bit word, the encoder, and both round trips;
then the round trips for every LEN_BITS (92_eei_decisions.md D4), and those of every micro-operation code (R85). -/
def Obligations.DecodeAndEncodeAgree : Prop :=
  (∀ w : BitVec 18, decodeCommand 16 w.toNat =
    if w.extractLsb 17 16 = 0b01#2 then .instr (.transmit (w.extractLsb 15 0).toNat)
    else if w.extractLsb 17 16 = 0b10#2 then .instr .latch
    else if w.extractLsb 17 16 = 0b00#2 then .rejected .reservedOp00
    else .rejected .reservedOp11) ∧
  (∀ n : Nat, n ≤ 65535 → encode 16 (.transmit n) = 0x10000 + n ∧
    decodeCommand 16 (0x10000 + n) = .instr (.transmit n)) ∧
  encode 16 .latch = 0x20000 ∧ decodeCommand 16 0x20000 = .instr .latch ∧
  (∀ (w : BitVec 18) (i : Instr), decodeCommand 16 w.toNat = .instr i →
    encode 16 i = if i = .latch then 0x20000 else w.toNat) ∧
  (∀ (lenBits : Nat) (i : Instr), i.wf lenBits = true →
    encode lenBits i < 2 ^ i.format.bits lenBits ∧ decode lenBits i.format (encode lenBits i) = .instr i) ∧
  (∀ (lenBits : Nat) (w : Nat) (i : Instr), decodeCommand lenBits w = .instr i →
    i.wf lenBits = true ∧ encode lenBits i = if i = .latch then 2 * 2 ^ lenBits else w) ∧
  (∀ (lenBits : Nat) (p : PhaseCode) (i : Instr), decodePhase p = .instr i → encode lenBits i = p.toNat)

/-- 30_encoding.md R82 and R84: match and mask of the two commands over the 18-bit word; in a LATCH word `len` is
ignored and an encoder writes 0x20000. -/
def Obligations.CommandsByMatchAndMask : Prop :=
  (∀ w : BitVec 18, (∃ n, decodeCommand 16 w.toNat = .instr (.transmit n)) ↔ w &&& 0x30000#18 = 0x10000#18) ∧
  (∀ w : BitVec 18, decodeCommand 16 w.toNat = .instr .latch ↔ w &&& 0x30000#18 = 0x20000#18) ∧
  encode 16 (.transmit 3) = 0x10003 ∧ encode 16 (.transmit 36) = 0x10024 ∧ encode 16 (.transmit 0) = 0x10000 ∧
  (∀ w : Nat, 0x20000 ≤ w → w ≤ 0x2FFFF → decodeCommand 16 w = .instr .latch) ∧
  encode 16 .latch = 0x20000

/-- 30_encoding.md R83: words with op 00 or 11 are invalid to the decoder, 0x00000 to 0x0FFFF and 0x30000 to 0x3FFFF with
LEN_BITS = 16, and the machine refuses a Host that presents one in IDLE (log entry 11); so too a number wider than the
port, which is the model's own case. -/
def Obligations.ReservedWordsAreRefused : Prop :=
  (∀ w : Nat, w < 0x10000 ∨ 0x30000 ≤ w → (decodeCommand 16 w).toOption = none) ∧
  (∀ (s : State) (w : Nat) (rest : List HostStep), w < 2 ^ s.cfg.lenBits ∨ 3 * 2 ^ s.cfg.lenBits ≤ w →
    s.undisturbedNow → s.phase = Phase.idle → s.host = .command w :: rest →
    (decodeCommand s.cfg.lenBits w).toOption = none ∧ step s = .refused (.reservedCommand w))

/-- Only a PHASE of 12 to 15 makes a step fault: an undisturbed step there is a fault, which is the model's choice (log
entry 12: 93_implementation_defined.md U14 lets a model be stuck or fault); in every PHASE of 0 to 11, IDLE included, no
step faults; in every PHASE of 1 to 11 the step answers a next state; and so does exec of every instruction
(60_exceptions.md R190: no operation can trap). -/
def Obligations.OnlyUnusedCodesFault : Prop :=
  (∀ s : State, s.undisturbedNow → 12 ≤ s.phase.toNat → step s = .fault (.illegalPhase s.phase)) ∧
  (∀ (s : State) (r : Fault), s.phase.toNat ≤ 11 → step s ≠ .fault r) ∧
  (∀ s : State, s.phase.toNat ≤ 11 → s.phase ≠ Phase.idle → ∃ t, step s = .next t) ∧
  (∀ (i : Instr) (s : State), ∃ t, exec i s = .next t)

/-! Reset and the invariants. -/

/-- 10_state.md R40 (with R198 (1)): a system reset, in any state and whatever is in progress, leaves IDLE, PIN = 0,
IE = IE_RESET, TRACE empty, NOW = 0 and the constant Cfg; so does the reset state; and after it the block does nothing
but let time pass until a command is accepted. Nothing is said of what R40 leaves unspecified. -/
def Obligations.SystemResetTakesTheResetState : Prop :=
  (∀ (s : State) (rest : List Bool), s.rst = true :: rest → ∃ t, step s = .next t ∧
    t.phase = Phase.idle ∧ t.pin = false ∧ t.ie = s.cfg.ieReset ∧ t.trace = [] ∧ t.now = 0 ∧ t.cfg = s.cfg) ∧
  (State.reset.phase = Phase.idle ∧ State.reset.pin = false ∧ State.reset.ie = Config.ieReset ∧
    State.reset.trace = [] ∧ State.reset.now = 0) ∧
  (∀ s : State, s.undisturbedNow → s.phase = Phase.idle → s.host = [] →
    ∃ t, step s = .next t ∧ t = { s.inputsUsed with trace := t.trace, oeTrace := t.oeTrace, now := t.now })

/-- The invariant holds after every reset, whatever inputs are still to come (10_state.md R40, R42). -/
def Obligations.ResetMeetsTheInvariant : Prop :=
  ∀ (c : Cfg) (resets gen : Nat) (h : List HostStep) (p : List Interrupt) (r : List Bool),
    (State.afterReset c resets gen h p r).Inv ∧ (State.afterReset c resets gen h p r).Tidy ∧
    (State.afterReset c resets gen h p r).lineAgrees

/-- Every step of the system keeps the invariant, that is R42 of 10_state.md and the two facts about IDX that make it
inductive. -/
def Obligations.EveryStepKeepsTheInvariant : Prop :=
  ∀ s t : State, s.Inv → step s = .next t → t.Inv

/-- 10_state.md R42: in every state reachable from reset, whatever the configuration, the Host, the Preemptor and the
reset line do, (a) to (d) hold. -/
def Obligations.ReachableStatesMeetR42 : Prop :=
  ∀ (c : Cfg) (h : List HostStep) (p : List Interrupt) (r : List Bool) (n : Nat) (t : State),
    runSteps n (State.afterReset c 0 0 h p r) = .next t →
    t.phaseLegal ∧ t.pinByPhase ∧ t.ieByPhase ∧ t.positionByPhase

/-- Every step keeps NOW the cycles of TRACE (10_state.md R37) and of the record of OE, every segment of both non-empty
(00_scope.md R10), LEN and IDX inside their widths (R23, R24), FB in canonical form, and Cfg as it is (R32). -/
def Obligations.EveryStepKeepsHistoryAndMemoryTidy : Prop :=
  ∀ s t : State, s.Tidy → step s = .next t → t.Tidy ∧ t.cfg = s.cfg

/-- Every step keeps what the model records of a run's observation: it counts as driven only while OE = 1, and a command
in progress is driven or lost (45_line_observation.md R186; the ghost is the model's, log entry 10). -/
def Obligations.EveryStepKeepsTheLineStatus : Prop :=
  ∀ s t : State, s.lineAgrees → step s = .next t → t.lineAgrees

/-- 10_state.md R33 with R28 and 45_line_observation.md R170: in every cycle that a step lets pass the line carries PIN
when OE = 1 and has no level when OE = 0; the cycles before keep theirs, in a run whose observation is lost too; a cycle
not yet passed has none; after a reset there is no cycle; and with OE = 1 throughout the line is TRACE. (That OE is
recorded beside TRACE is the model's, log entry 10.) -/
def Obligations.LineCarriesThePinWhileDriven : Prop :=
  (∀ s t : State, s.historyWhole → s.rst.head? ≠ some true → step s = .next t →
    (∀ c, c < s.now → t.lineLevel c = s.lineLevel c) ∧
    (∀ c, s.now ≤ c → c < t.now → t.lineLevel c = if s.oe = true then some s.pin else none) ∧
    (∀ c, t.now ≤ c → t.lineLevel c = none)) ∧
  (∀ (s t : State) (rest : List Bool), s.rst = true :: rest → step s = .next t → ∀ c, t.lineLevel c = none) ∧
  (∀ s : State, s.historyWhole → (∀ seg ∈ s.oeTrace, seg.1 = true) → ∀ c, s.lineLevel c = s.trace.levelAt c)

/-- 70_reset_and_hazards.md R223: the four premises about the environment's steps hold of this model by construction
(log entry 23): nothing but RISE, COND and FALL writes PIN, FB is stable while the block is busy, a preemption keeps IE,
and a reset takes the whole system. -/
def Obligations.EnvironmentMeetsItsPremises : Prop :=
  P_PinExclusive ∧ P_FBStable ∧ P_HandlerKeepsIE ∧ P_SystemReset

/-- 10_state.md R43: no run reads a register before it is written. From a reset with any values in the five registers that
R40 leaves unspecified, every run is the run from the model's reset state, and differs from it in those registers only,
and in each of them only while PHASE is where it is dead. So no behaviour rests on the values the model chose (log entry
2). -/
def Obligations.RegistersAreWrittenBeforeTheyAreRead : Prop :=
  ∀ (c : Cfg) (resets gen : Nat) (h : List HostStep) (p : List Interrupt) (r : List Bool) (len idx : Nat)
    (bitcnt : BitVec 4) (shreg : Byte) (ieSaved : Bool) (n : Nat) (t : State),
    runSteps n (State.afterReset c resets gen h p r) = .next t →
    ∃ u, runSteps n { State.afterReset c resets gen h p r with
        len := len, idx := idx, bitcnt := bitcnt, shreg := shreg, ieSaved := ieSaved } = .next u ∧
      u = { t with len := u.len, idx := u.idx, bitcnt := u.bitcnt, shreg := u.shreg, ieSaved := u.ieSaved } ∧
      (1 ≤ t.phase.toNat ∧ t.phase.toNat ≤ 9 → u.len = t.len ∧ u.idx = t.idx) ∧
      (3 ≤ t.phase.toNat ∧ t.phase.toNat ≤ 9 → u.shreg = t.shreg ∧ u.bitcnt = t.bitcnt) ∧
      (2 ≤ t.phase.toNat ∧ t.phase.toNat ≤ 10 → u.ieSaved = t.ieSaved)

/-! The commands. -/

/-- 40_transmit.md R101: acceptance of TRANSMIT(N) in IDLE, in no cycles, with its whole frame (nothing is said of the
model's ghost `line`); MODE becomes Transmitting; and while PHASE is not IDLE no Host step is enabled: the step is the
Encoder's. -/
def Obligations.TransmitIsAccepted : Prop :=
  (∀ (n : Nat) (s : State), n < 2 ^ s.cfg.lenBits → s.phase = Phase.idle →
    ∃ t, exec (.transmit n) s = .next t ∧ t.mode = .transmitting ∧
      t = { s with len := n, idx := 0, phase := Phase.enter, line := t.line }) ∧
  (∀ (s : State) (w : Nat) (rest : List HostStep) (n : Nat), s.undisturbedNow → s.phase = Phase.idle →
    s.host = .command w :: rest → decodeCommand s.cfg.lenBits w = .instr (.transmit n) → ∃ t, step s = .next t ∧
      t = { s.inputsUsed with host := rest, len := n, idx := 0, phase := Phase.enter, line := t.line }) ∧
  (∀ s : State, s.undisturbedNow → s.phase ≠ Phase.idle → step s = encoderStep s.inputsUsed)

/-- 42_latch.md R141: acceptance of LATCH in IDLE, in no cycles, with its whole frame (nothing is said of the model's
ghost `line`); MODE stays Idle, BUSY becomes 1, and no further command is accepted until HOLDR ends: no step without
reset takes anything off the Host's list in HOLDR. -/
def Obligations.LatchIsAccepted : Prop :=
  (∀ s : State, s.phase = Phase.idle → ∃ t, exec .latch s = .next t ∧ t.mode = .idle ∧ t.busy = true ∧
    t = { s with phase := Phase.holdr, line := t.line }) ∧
  (∀ (s : State) (w : Nat) (rest : List HostStep), s.undisturbedNow → s.phase = Phase.idle →
    s.host = .command w :: rest → decodeCommand s.cfg.lenBits w = .instr .latch → ∃ t, step s = .next t ∧
      t = { s.inputsUsed with host := rest, phase := Phase.holdr, line := t.line }) ∧
  (∀ s t : State, s.phase = Phase.holdr → s.rst.head? ≠ some true → step s = .next t → t.host = s.host)

/-- 40_transmit.md R119: while a command is in progress none is accepted and the Host's next action waits: `cmd_ready`
is 0 and a step leaves the Host's list as it is. (A step that is a reset leaves it too, since the inputs to come survive
a reset in this model, log entry 9.) That exec of a command answers the same state while BUSY is the model's way to say
that it waits (log entry 13). -/
def Obligations.BusyBlockTakesNoCommand : Prop :=
  (∀ s t : State, s.phase ≠ Phase.idle → step s = .next t → t.host = s.host) ∧
  (∀ (s : State) (n : Nat), s.phase ≠ Phase.idle →
    exec (.transmit n) s = .next s ∧ exec .latch s = .next s ∧ s.cmdReady = false)

/-! The micro-operations: each answers exactly this next state, from every state. Nothing is said of the model's ghost
`line`, which Obligations.EveryStepKeepsTheLineStatus and Obligations.UndrivenCommandsRunUnobserved are about. -/

/-- ENTER (41_critical_section.md R131): code 1; C_ENTER cycles at the pin's level, then IE is saved and cleared, and the
successor is LOADB if LEN > 0, else EXIT. All else is unchanged. PIN is 0 there, and a preemption before the commit only
lengthens the segment. -/
def Obligations.EnterSavesAndClearsTheFlag : Prop :=
  decodePhase 1#4 = .instr .enter ∧
  (∀ s : State, ∃ t, exec .enter s = .next t ∧ t = { s with
    trace := s.trace.push s.pin s.cfg.cEnter, oeTrace := s.oeTrace.push s.oe s.cfg.cEnter,
    now := s.now + s.cfg.cEnter, line := t.line
    ieSaved := s.ie, ie := false
    phase := if s.len = 0 then Phase.exit else Phase.loadb }) ∧
  (∀ s : State, s.R42 → s.phase = Phase.enter → s.pin = false) ∧
  (∀ (s : State) (k : Nat) (rest : List Interrupt), s.phase = Phase.enter → s.ie = true → s.rst.head? ≠ some true →
    s.preemptor = .preempt k :: rest → step s = .next { s with
      rst := s.rst.tail, preemptor := rest
      trace := s.trace.push s.pin k, oeTrace := s.oeTrace.push s.oe k, now := s.now + k })

/-- EXIT (R132): code 10; C_EXIT cycles at the pin's level, then IE is restored and PHASE goes to IDLE: MODE is Idle and
BUSY 0. All else is unchanged, IE_SAVED too. PIN and IE are 0 during it. -/
def Obligations.ExitRestoresTheFlag : Prop :=
  decodePhase 10#4 = .instr .exit ∧
  (∀ s : State, ∃ t, exec .exit s = .next t ∧ t.mode = .idle ∧ t.busy = false ∧ t = { s with
    trace := s.trace.push s.pin s.cfg.cExit, oeTrace := s.oeTrace.push s.oe s.cfg.cExit,
    now := s.now + s.cfg.cExit, line := t.line
    ie := s.ieSaved, phase := Phase.idle }) ∧
  (∀ s : State, s.R42 → s.phase = Phase.exit → s.pin = false ∧ s.ie = false)

/-- LOADB (40_transmit.md R103): code 2; no cycles; SHREG takes FB[IDX], BITCNT takes 8. All else is unchanged: TRACE,
NOW, and FB at every index. IDX < LEN there, and a byte the Host has written is the byte read. -/
def Obligations.LoadbTakesTheIndexedByte : Prop :=
  decodePhase 2#4 = .instr .loadb ∧
  (∀ s : State, ∃ t, exec .loadb s = .next t ∧ t = { s with
    shreg := s.fbByte s.idx, bitcnt := 8#4, phase := Phase.rise, line := t.line }) ∧
  (∀ (s : State) (b : Byte), Memory.read s.fb s.idx = some b → s.fbByte s.idx = b) ∧
  (∀ s : State, s.Inv → s.phase = Phase.loadb → s.idx < s.len)

/-- RISE, COND and FALL (R104, R106, R108): codes 3, 5, 7; their cycles at the level PIN had, then their write of PIN.
COND writes 0 when the current bit SHREG[7] is 0, else nothing. All else is unchanged. PIN is 0 when RISE starts, 1 when
COND starts, the bit when FALL starts; so the high times of the symbols are TH0 and TH1. -/
def Obligations.DriveStepsWriteThePin : Prop :=
  (decodePhase 3#4 = .instr .rise ∧ decodePhase 5#4 = .instr .cond ∧ decodePhase 7#4 = .instr .fall) ∧
  (∀ s : State, ∃ t, exec .rise s = .next t ∧ t = { s with
    trace := s.trace.push s.pin s.cfg.cRise, oeTrace := s.oeTrace.push s.oe s.cfg.cRise,
    now := s.now + s.cfg.cRise, line := t.line
    pin := true, phase := Phase.holdb }) ∧
  (∀ s : State, s.shreg.getLsbD 7 = false → ∃ t, exec .cond s = .next t ∧ t = { s with
    trace := s.trace.push s.pin s.cfg.cCond, oeTrace := s.oeTrace.push s.oe s.cfg.cCond,
    now := s.now + s.cfg.cCond, line := t.line
    pin := false, phase := Phase.holdd }) ∧
  (∀ s : State, s.shreg.getLsbD 7 = true → ∃ t, exec .cond s = .next t ∧ t = { s with
    trace := s.trace.push s.pin s.cfg.cCond, oeTrace := s.oeTrace.push s.oe s.cfg.cCond,
    now := s.now + s.cfg.cCond, line := t.line
    phase := Phase.holdd }) ∧
  (∀ s : State, ∃ t, exec .fall s = .next t ∧ t = { s with
    trace := s.trace.push s.pin s.cfg.cFall, oeTrace := s.oeTrace.push s.oe s.cfg.cFall,
    now := s.now + s.cfg.cFall, line := t.line
    pin := false, phase := Phase.holdf }) ∧
  (∀ s : State, s.R42 → (s.phase = Phase.rise → s.pin = false) ∧ (s.phase = Phase.cond → s.pin = true) ∧
    (s.phase = Phase.fall → s.pin = s.shreg.getLsbD 7)) ∧
  (∀ c : Cfg, c.th0 = c.base + c.cCond ∧ c.th1 = c.base + c.cCond + c.delta + c.cFall)

/-- HOLDB, HOLDD, HOLDF (R105, R107, R109) and HOLDR (42_latch.md R142): codes 4, 6, 8, 11; BASE, DELTA, FINAL, T_LATCH
cycles at the pin's level, and the successor. All else is unchanged, PIN and IE in particular. PIN is 1, the bit, 0 and 0
during them; the build's T_LATCH is not below RESET_CYC. -/
def Obligations.HoldsOnlyLetTimePass : Prop :=
  (decodePhase 4#4 = .instr .holdb ∧ decodePhase 6#4 = .instr .holdd ∧ decodePhase 8#4 = .instr .holdf ∧
    decodePhase 11#4 = .instr .holdr ∧ Config.build.V8) ∧
  (∀ s : State, ∃ t, exec .holdb s = .next t ∧ t = { s with
    trace := s.trace.push s.pin s.cfg.base, oeTrace := s.oeTrace.push s.oe s.cfg.base,
    now := s.now + s.cfg.base, line := t.line, phase := Phase.cond }) ∧
  (∀ s : State, ∃ t, exec .holdd s = .next t ∧ t = { s with
    trace := s.trace.push s.pin s.cfg.delta, oeTrace := s.oeTrace.push s.oe s.cfg.delta,
    now := s.now + s.cfg.delta, line := t.line, phase := Phase.fall }) ∧
  (∀ s : State, ∃ t, exec .holdf s = .next t ∧ t = { s with
    trace := s.trace.push s.pin s.cfg.final, oeTrace := s.oeTrace.push s.oe s.cfg.final,
    now := s.now + s.cfg.final, line := t.line, phase := Phase.next }) ∧
  (∀ s : State, ∃ t, exec .holdr s = .next t ∧ t = { s with
    trace := s.trace.push s.pin s.cfg.tLatch, oeTrace := s.oeTrace.push s.oe s.cfg.tLatch,
    now := s.now + s.cfg.tLatch, line := t.line, phase := Phase.idle }) ∧
  (∀ s : State, s.R42 → (s.phase = Phase.holdb → s.pin = true) ∧
    (s.phase = Phase.holdd → s.pin = s.shreg.getLsbD 7) ∧
    (s.phase = Phase.holdf ∨ s.phase = Phase.holdr → s.pin = false))

/-- NEXT (40_transmit.md R110): code 9; C_LOOP cycles, the shift, the count, and the three-way choice of the successor.
All else is unchanged. IDX + 1 does not wrap, PIN is 0 and BITCNT from 1 to 8 there; the shifts send the byte most
significant bit first (10_state.md R26) and leave 0 after eight. -/
def Obligations.NextAdvancesThePosition : Prop :=
  decodePhase 9#4 = .instr .next ∧
  (∀ s : State, s.bitcnt - 1#4 ≠ 0#4 → ∃ t, exec .next s = .next t ∧ t = { s with
    trace := s.trace.push s.pin s.cfg.cLoop, oeTrace := s.oeTrace.push s.oe s.cfg.cLoop,
    now := s.now + s.cfg.cLoop, line := t.line
    shreg := s.shreg <<< 1, bitcnt := s.bitcnt - 1#4, phase := Phase.rise }) ∧
  (∀ s : State, s.bitcnt - 1#4 = 0#4 → ∃ t, exec .next s = .next t ∧ t = { s with
    trace := s.trace.push s.pin s.cfg.cLoop, oeTrace := s.oeTrace.push s.oe s.cfg.cLoop,
    now := s.now + s.cfg.cLoop, line := t.line
    shreg := s.shreg <<< 1, bitcnt := 0#4, idx := (s.idx + 1) % 2 ^ s.cfg.lenBits
    phase := if (s.idx + 1) % 2 ^ s.cfg.lenBits < s.len then Phase.loadb else Phase.exit }) ∧
  (∀ s : State, s.R42 → s.Tidy → s.phase = Phase.next → (s.idx + 1) % 2 ^ s.cfg.lenBits = s.idx + 1) ∧
  (∀ s : State, s.R42 → s.phase = Phase.next → s.pin = false ∧ 1 ≤ s.bitcnt.toNat ∧ s.bitcnt.toNat ≤ 8) ∧
  (∀ (b : Byte) (j : Nat), j < 8 → (b <<< j).getLsbD 7 = b.getLsbD (7 - j)) ∧
  (∀ b : Byte, b <<< 8 = 0#8)

/-- The frame of every instruction (10_state.md R21, R28, R29; 20_memory.md R50): who may write what. Every byte of FB
reads as before; Cfg, OE, the inputs and the counters of the free values are unchanged; PIN is written by RISE, COND and
FALL only, IE by ENTER and EXIT only, and each sequencer register by its writers only. -/
def Obligations.InstructionsWriteOnlyTheirRegisters : Prop :=
  ∀ (i : Instr) (s t : State), exec i s = .next t →
    (∀ a, Memory.read t.fb a = Memory.read s.fb a) ∧ (∀ a, t.fbByte a = s.fbByte a) ∧
    t.cfg = s.cfg ∧ t.oe = s.oe ∧ t.host = s.host ∧ t.preemptor = s.preemptor ∧ t.rst = s.rst ∧
    t.resets = s.resets ∧ t.fbGen = s.fbGen ∧
    (i ≠ .rise → i ≠ .cond → i ≠ .fall → t.pin = s.pin) ∧
    (i ≠ .enter → i ≠ .exit → t.ie = s.ie) ∧
    (i ≠ .enter → t.ieSaved = s.ieSaved) ∧
    (i ≠ .loadb → i ≠ .next → t.shreg = s.shreg ∧ t.bitcnt = s.bitcnt) ∧
    ((∀ n, i ≠ .transmit n) → t.len = s.len) ∧
    ((∀ n, i ≠ .transmit n) → i ≠ .next → t.idx = s.idx)

/-- 40_transmit.md R116: every micro-operation has the same cost on every execution, a field of Cfg: it emits exactly
that many cycles at the level PIN had, in whatever state it starts; acceptance of a command emits none. -/
def Obligations.EveryOperationHasConstantCost : Prop :=
  (∀ (i : Instr) (s t : State), exec i s = .next t →
    t.trace = s.trace.push s.pin (s.cfg.cost i) ∧ t.now = s.now + s.cfg.cost i) ∧
  (∀ (c : Cfg) (n : Nat), c.cost (.transmit n) = 0 ∧ c.cost .latch = 0) ∧
  (∀ c : Cfg, c.cost .enter = c.cEnter ∧ c.cost .loadb = 0 ∧ c.cost .rise = c.cRise ∧ c.cost .holdb = c.base ∧
    c.cost .cond = c.cCond ∧ c.cost .holdd = c.delta ∧ c.cost .fall = c.cFall ∧ c.cost .holdf = c.final ∧
    c.cost .next = c.cLoop ∧ c.cost .exit = c.cExit ∧ c.cost .holdr = c.tLatch)

/-- 10_state.md R22: PHASE. The twelve codes and their names, the cost of each operation, and its successor: from every
code that is an operation an undisturbed step takes the cost of the table and leaves PHASE at its successor, codes 12 to
15 are never written, and from IDLE a TRANSMIT goes to ENTER and a LATCH to HOLDR. -/
def Obligations.PhaseFollowsTheSuccessorTable : Prop :=
  [1#4, 2#4, 3#4, 4#4, 5#4, 6#4, 7#4, 8#4, 9#4, 10#4, 11#4].map decodePhase =
    [.enter, .loadb, .rise, .holdb, .cond, .holdd, .fall, .holdf, .next, .exit, .holdr].map Decoded.instr ∧
  (∀ s t : State, s.phase = Phase.idle →
    (∀ n, exec (.transmit n) s = .next t → t.phase = 1#4) ∧ (exec .latch s = .next t → t.phase = 11#4)) ∧
  (∀ s t : State, s.undisturbedNow → s.phase ≠ Phase.idle → step s = .next t →
    t.phase.toNat ≤ 11 ∧
    (s.phase = 1#4 → t.now = s.now + s.cfg.cEnter ∧ t.phase = if 0 < s.len then 2#4 else 10#4) ∧
    (s.phase = 2#4 → t.now = s.now ∧ t.phase = 3#4) ∧
    (s.phase = 3#4 → t.now = s.now + s.cfg.cRise ∧ t.phase = 4#4) ∧
    (s.phase = 4#4 → t.now = s.now + s.cfg.base ∧ t.phase = 5#4) ∧
    (s.phase = 5#4 → t.now = s.now + s.cfg.cCond ∧ t.phase = 6#4) ∧
    (s.phase = 6#4 → t.now = s.now + s.cfg.delta ∧ t.phase = 7#4) ∧
    (s.phase = 7#4 → t.now = s.now + s.cfg.cFall ∧ t.phase = 8#4) ∧
    (s.phase = 8#4 → t.now = s.now + s.cfg.final ∧ t.phase = 9#4) ∧
    (s.phase = 9#4 → t.now = s.now + s.cfg.cLoop ∧ t.phase =
      if s.bitcnt - 1#4 ≠ 0#4 then 3#4
      else if (s.idx + 1) % 2 ^ s.cfg.lenBits < s.len then 2#4 else 10#4) ∧
    (s.phase = 10#4 → t.now = s.now + s.cfg.cExit ∧ t.phase = 0#4) ∧
    (s.phase = 11#4 → t.now = s.now + s.cfg.tLatch ∧ t.phase = 0#4))

/-! The environment. -/

/-- From 10_state.md R41: in IDLE the Host lets k cycles pass, or writes FB, OE or IE in no time, or has a command
accepted in no time; nothing else changes. While PHASE is not IDLE none of this is enabled: FB, OE and the Host's actions
to come stay. The model's own are the list of actions and which comes next (log entry 6), a write of FB as a sequence
whose further indices are then unwritten, or of one byte inside the index space (log entry 4), that Idle(0) appends
nothing (log entry 24), and the ghosts `line` and `fbGen`, of which nothing is said. -/
def Obligations.HostActsInIdleOnly : Prop :=
  (∀ (s : State) (rest : List HostStep), s.undisturbedNow → s.phase = Phase.idle →
    (∀ k, s.host = .idle k :: rest → step s = .next { s.inputsUsed with
      host := rest, trace := s.trace.push s.pin k, oeTrace := s.oeTrace.push s.oe k, now := s.now + k }) ∧
    (∀ bytes, s.host = .writeFb bytes :: rest → ∃ t, step s = .next t ∧
      (∀ i, i < 2 ^ s.cfg.lenBits → Memory.read t.fb i = bytes[i]?) ∧
      t = { s.inputsUsed with host := rest, fb := t.fb, fbGen := t.fbGen }) ∧
    (∀ i b, s.host = .writeByte i b :: rest → ∃ t, step s = .next t ∧
      (i < 2 ^ s.cfg.lenBits → Memory.read t.fb i = some b) ∧
      (∀ a, a ≠ i ∨ 2 ^ s.cfg.lenBits ≤ i → Memory.read t.fb a = Memory.read s.fb a) ∧
      t = { s.inputsUsed with host := rest, fb := t.fb }) ∧
    (∀ v, s.host = .writeOe v :: rest → ∃ t, step s = .next t ∧
      t = { s.inputsUsed with host := rest, oe := v, line := t.line }) ∧
    (∀ v, s.host = .writeIe v :: rest → step s = .next { s.inputsUsed with host := rest, ie := v }) ∧
    (∀ w i, s.host = .command w :: rest → decodeCommand s.cfg.lenBits w = .instr i → ∃ t, step s = .next t ∧
      t.busy = true ∧ t.trace = s.trace ∧ t.now = s.now ∧ t.host = rest)) ∧
  (∀ s t : State, s.phase ≠ Phase.idle → s.rst.head? ≠ some true → step s = .next t →
    t.host = s.host ∧ t.fb = s.fb ∧ t.oe = s.oe)

/-- 60_exceptions.md R193: Preempt(k) is enabled exactly when IE = 1, lets k cycles pass and changes no register of the
block; while IE = 0 the request is held (R197) and the step is that of Host or Encoder; and since IE = 1 only in IDLE,
ENTER and HOLDR, every Preempt(k) emits a low segment. -/
def Obligations.PreemptionOnlyWhileEnabled : Prop :=
  ∀ (s : State) (k : Nat) (rest : List Interrupt), s.rst.head? ≠ some true → s.preemptor = .preempt k :: rest →
    (s.ie = true → step s = .next { s with
      rst := s.rst.tail, preemptor := rest
      trace := s.trace.push s.pin k, oeTrace := s.oeTrace.push s.oe k, now := s.now + k }) ∧
    (s.ie = false → step s = runStep { s with rst := s.rst.tail } ∧
      ∀ t, step s = .next t → t.preemptor = s.preemptor) ∧
    (s.R42 → s.ie = true →
      (s.phase = Phase.idle ∨ s.phase = Phase.enter ∨ s.phase = Phase.holdr) ∧ s.pin = false)

/-- 41_critical_section.md R133: from the commit of ENTER to the commit of EXIT IE = 0, and without a source that
ignores IE the step is the Encoder's. -/
def Obligations.NoPreemptionInsideTransmit : Prop :=
  ∀ s : State, s.Inv → 2 ≤ s.phase.toNat → s.phase.toNat ≤ 10 → s.P_NoUnmaskable → s.rst.head? ≠ some true →
    s.ie = false ∧ step s = encoderStep s.inputsUsed ∧
    ∃ t, step s = .next t ∧ (s.phase ≠ Phase.exit → t.ie = false ∧ 2 ≤ t.phase.toNat ∧ t.phase.toNat ≤ 10)

/-- 41_critical_section.md R134: let v be IE when a TRANSMIT is accepted; at the first return to IDLE IE = v, whatever
the Preemptor does meanwhile, sources that ignore IE included, unless a system reset comes. LATCH does not touch IE. -/
def Obligations.TransmitRestoresTheInterruptFlag : Prop :=
  (∀ (s : State) (w : Nat) (rest : List HostStep) (n : Nat) (k : Nat) (t : State),
    s.undisturbedNow → s.noReset → s.phase = Phase.idle → s.host = .command w :: rest →
    decodeCommand s.cfg.lenBits w = .instr (.transmit n) →
    (∀ m u, 1 ≤ m → m < k → runSteps m s = .next u → u.phase ≠ Phase.idle) →
    1 ≤ k → runSteps k s = .next t → t.phase = Phase.idle → t.ie = s.ie) ∧
  (∀ s t : State, exec .latch s = .next t ∨ exec .holdr s = .next t → t.ie = s.ie)

/-! The waveform. -/

/-- 40_transmit.md R113 with R111: whenever a RISE starts, the segments emitted up to and including the following NEXT
are CellTrace(SHREG[7]), whatever the rest of the state. The premises: the invariant, no source that ignores IE, no
reset. -/
def Obligations.CellDependsOnItsBitAlone : Prop :=
  ∀ s : State, s.Inv → s.P_NoUnmaskable → s.noReset → s.phase = Phase.rise →
    ∃ t segs, runSteps 7 s = .next t ∧ t.trace = s.trace ++ segs ∧
      runs segs = runs (cellTrace s.cfg (s.shreg.getLsbD 7)) ∧ Trace.total segs = s.cfg.tcell ∧ t.pin = false ∧
      t.shreg = s.shreg <<< 1

/-- 30_encoding.md R71: the level in each cycle of a cell, by its offset from the start of the cell's RISE: low for C_RISE
cycles, high for TH of the bit, low to the end of TCELL; and the low time between two high runs is TL of the earlier bit.
The premises: the invariant, no source that ignores IE, no reset. -/
def Obligations.CellIsLeadHighTail : Prop :=
  (∀ s : State, s.Inv → s.P_NoUnmaskable → s.noReset → s.phase = Phase.rise →
    ∃ t segs, runSteps 7 s = .next t ∧ t.trace = s.trace ++ segs ∧ ∀ o,
      Trace.levelAt segs o =
        if o < s.cfg.cRise then some false
        else if o < s.cfg.cRise + s.cfg.th (s.shreg.getLsbD 7) then some true
        else if o < s.cfg.tcell then some false
        else none) ∧
  (∀ (c : Cfg) (b : Bool), (c.tcell - c.cRise - c.th b) + c.cRise = c.tcell - c.th b)

/-- 20_memory.md R56 and R62 (1): the order of a TRANSMIT's bits on the wire. Bit k of the sequence is bit 7 - k mod 8 of
byte k / 8; byte 3k + c of a frame is the green, the red, the blue of pixel k; and the waveform of
Obligations.TransmitAppendsItsWaveform has one cell for each bit in that order. -/
def Obligations.BitsGoOutInTheOrderOfTheWire : Prop :=
  (∀ (bytes : List Byte) (k : Nat), (bitsOfBytes bytes)[k]? = bytes[k / 8]?.map (fun b => b.getLsbD (7 - k % 8))) ∧
  (∀ (pixels : List Rgb) (k : Nat),
    (frameBytes pixels)[3 * k]? = pixels[k]?.map Rgb.g ∧ (frameBytes pixels)[3 * k + 1]? = pixels[k]?.map Rgb.r ∧
    (frameBytes pixels)[3 * k + 2]? = pixels[k]?.map Rgb.b) ∧
  (∀ (c : Cfg) (bytes : List Byte) (k o : Nat), k < 8 * bytes.length → o < c.tcell →
    Trace.levelAt (transmitTrace c bytes) (c.cEnter + k * c.tcell + o) =
      (bitsOfBytes bytes)[k]?.bind (fun b => cellLevel c b o))

/-- 30_encoding.md R89 and R90: SHOW is TRANSMIT of the pixels' bytes in the order G, R, B, then LATCH; its words, with
LEN_BITS = 16; FILL M is SHOW of M copies; and programs of SHOW lines of NPIX pixels keep the Host's contract P_HostFrame
(70_reset_and_hazards.md R223). -/
def Obligations.ShowAndFillExpand : Prop :=
  (∀ (lenBits : Nat) (pixels : List Rgb), Line.steps lenBits (.show pixels) =
    Line.steps lenBits (.transmit (pixels.flatMap (fun p => [p.g, p.r, p.b]))) ++ Line.steps lenBits .latch) ∧
  (∀ pixels : List Rgb, 3 * pixels.length ≤ 65535 →
    commandWords (Line.steps 16 (.show pixels)) = [0x10000 + 3 * pixels.length, 0x20000]) ∧
  (∀ (lenBits m : Nat) (p : Rgb), Line.steps lenBits (.fill m p) = Line.steps lenBits (.show (List.replicate m p))) ∧
  commandWords (Line.steps 16 (.show [⟨0xFF, 0x00, 0x00⟩])) = [0x10003, 0x20000] ∧
  commandWords (Line.steps 16 (.fill 12 ⟨0x00, 0x00, 0xFF⟩)) = [0x10024, 0x20000] ∧
  (∀ (s : State) (frames : List (List Rgb)), (∀ pixels ∈ frames, pixels.length = s.cfg.nPix) →
    3 * s.cfg.nPix < 2 ^ s.cfg.lenBits → s.host = programSteps s.cfg.lenBits (frames.map Line.show) →
    s.P_HostFrame frames)

/-- 40_transmit.md R112 (and the counts of R100, R102 and R115): from IDLE with the pin low, and no preemption before
ENTER commits, TRANSMIT of N bytes takes 3 + 57 N steps (its acceptance, 2 + N + 56 N micro-operations), appends
TransmitTrace of FB[0..N-1] to the waveform and nothing else, lasts C_ENTER + 8 N TCELL + C_EXIT cycles, and ends in IDLE
with the pin low, IE as it was, IDX = LEN = N, and for N ≥ 1 SHREG and BITCNT zero. A preemption during ENTER only
lengthens the first low segment. -/
def Obligations.TransmitAppendsItsWaveform : Prop :=
  (∀ (s : State) (w : Nat) (rest : List HostStep) (n : Nat), s.phase = Phase.idle → s.pin = false →
    s.host = .command w :: rest → decodeCommand s.cfg.lenBits w = .instr (.transmit n) →
    s.noReset → s.P_NoUnmaskable → s.quietUntilEnter →
    ∃ t, runSteps (3 + 57 * n) s = .next t ∧
      runs t.trace = runs (s.trace ++ transmitTrace s.cfg (s.fbBytes n)) ∧
      t.now = s.now + (s.cfg.cEnter + 8 * n * s.cfg.tcell + s.cfg.cExit) ∧
      t.phase = Phase.idle ∧ t.pin = false ∧ t.ie = s.ie ∧ t.len = n ∧ t.idx = n ∧ t.host = rest ∧ t.fb = s.fb ∧
      (n ≠ 0 → t.shreg = 0#8 ∧ t.bitcnt = 0#4)) ∧
  (∀ (s : State) (k : Nat) (rest : List Interrupt), s.R42 → s.phase = Phase.enter → s.ie = true →
    s.rst.head? ≠ some true → s.preemptor = .preempt k :: rest →
    ∃ t, step s = .next t ∧
      t = { s with
        rst := s.rst.tail, preemptor := rest
        trace := s.trace.push false k, oeTrace := s.oeTrace.push s.oe k, now := s.now + k } ∧
      ∀ (bytes : List Byte), runs (t.trace ++ transmitTrace s.cfg bytes) =
        runs (s.trace ++ (false, k + s.cfg.cEnter) :: (transmitTrace s.cfg bytes).tail))

/-- 40_transmit.md R115: the k-th cell of a TRANSMIT has its rising edge C_ENTER + k TCELL + C_RISE cycles after ENTER
starts, and its falling edge TH of its bit later: no drift (43_timing_profile.md R163). Under V4, V5 and V6; the falling
edges are read where the line, low after EXIT, has stayed low for a further cycle, since the last cell may end high when
FINAL, C_LOOP and C_EXIT are all 0. -/
def Obligations.EdgesOfTransmitDoNotDrift : Prop :=
  ∀ (c : Cfg) (bytes : List Byte), c.V4 → c.V5 → c.V6 →
    risingEdges (transmitTrace c bytes) =
      (List.range (8 * bytes.length)).map (fun k => c.cEnter + k * c.tcell + c.cRise) ∧
    fallingEdges (transmitTrace c bytes ++ [(false, 1)]) =
      (bitsOfBytes bytes).zipIdx.map (fun bk => c.cEnter + bk.2 * c.tcell + c.cRise + c.th bk.1)

/-- 42_latch.md R143: every segment appended between the acceptance of a LATCH and its return to IDLE is low, whatever
the Preemptor does; they sum to at least T_LATCH, which with V8 is at least RESET_CYC, that is at least TRESET_NS at
F_HZ; and the trace then ends in a reset gap. -/
def Obligations.LatchHoldsTheLineLow : Prop :=
  ∀ (s t : State) (k : Nat), s.phase = Phase.holdr → s.pin = false → s.noReset →
    (∀ m u, m < k → runSteps m s = .next u → u.phase ≠ Phase.idle) →
    runSteps k s = .next t → t.phase = Phase.idle →
    ∃ segs, t.trace = s.trace ++ segs ∧ (∀ seg ∈ segs, seg.1 = false) ∧ s.cfg.tLatch ≤ Trace.total segs ∧
      t.pin = false ∧
      (s.cfg.V8 → s.cfg.resetCyc ≤ Trace.total segs ∧
        (0 < s.cfg.fHz → (s.cfg.tresetNs : Rat) ≤ s.cfg.ns (Trace.total segs)) ∧
        (0 < s.cfg.tLatch → endsInGap s.cfg.resetCyc t.trace = true))

/-! The receiver. -/

/-- 43_timing_profile.md R162 and 45_line_observation.md R174: the symbols differ by DELTA + C_FALL; twice a symbol lies
strictly on its side of TH0 + TH1 exactly when V5 holds; then the decoder reads TH0 as 0 and TH1 as 1; and a run at the
midpoint reads as 0. -/
def Obligations.ThresholdTellsTheSymbolsApart : Prop :=
  ∀ c : Cfg, c.th1 = c.th0 + (c.delta + c.cFall) ∧
    ((2 * c.th0 < c.th0 + c.th1 ∧ c.th0 + c.th1 < 2 * c.th1) ↔ c.V5) ∧
    (c.V5 → decodeBit c c.th0 = false ∧ decodeBit c c.th1 = true) ∧
    (∀ h, decodeBit c h = true ↔ c.th0 + c.th1 < 2 * h)

/-- 45_line_observation.md R182: under V4 and V6 a TRANSMIT(N) adds exactly 8 N high runs to Runs(TRACE), whatever the
byte values and whatever the maskable sources do (R184): they may preempt in IDLE and before ENTER commits. Without
that it takes 3 + 57 N steps. -/
def Obligations.TransmitAddsEightRunsPerByte : Prop :=
  ∀ (s : State) (w : Nat) (rest : List HostStep) (n : Nat), s.phase = Phase.idle → s.pin = false →
    s.host = .command w :: rest → decodeCommand s.cfg.lenBits w = .instr (.transmit n) →
    s.noReset → s.P_NoUnmaskable → s.endsLow → s.cfg.V4 → s.cfg.V6 →
    ∃ k t, s.returnsIn k rest t ∧ (s.quietUntilEnter → k = 3 + 57 * n) ∧
      (highRuns (runs t.trace)).length = (highRuns (runs s.trace)).length + 8 * n

/-- 45_line_observation.md R179: round trip. Under V4 to V7, from IDLE on a line whose trace is empty or ends in a closed
reset gap, TRANSMIT of N bytes leaves, at the first return to IDLE, a last line frame of exactly 8 N high runs that the
reference decoder reads back as those bytes, behind the line frames there were; for N = 0 no frame is added. Whatever the
maskable sources do (R184): they may preempt in IDLE and before ENTER commits; without that it takes 3 + 57 N steps. -/
def Obligations.RoundTripOfTheLineCode : Prop :=
  ∀ (s : State) (w : Nat) (rest : List HostStep) (n : Nat), s.phase = Phase.idle → s.pin = false →
    s.host = .command w :: rest → decodeCommand s.cfg.lenBits w = .instr (.transmit n) →
    s.noReset → s.P_NoUnmaskable → s.freshLine →
    s.cfg.V4 → s.cfg.V5 → s.cfg.V6 → s.cfg.V7 →
    ∃ k t, s.returnsIn k rest t ∧ (s.quietUntilEnter → k = 3 + 57 * n) ∧
      (n = 0 → lineFrames t.cfg t.trace = lineFrames s.cfg s.trace) ∧
      (n ≠ 0 → ∃ f, lineFrames t.cfg t.trace = lineFrames s.cfg s.trace ++ [f] ∧
        f.highs.length = 8 * n ∧ decodeBytes t.cfg f = s.fbBytes n)

/-- 45_line_observation.md R177: a TRANSMIT of N ≥ 1 bytes after an open line frame of whole bytes, whatever the maskable
sources do; `stolen` is what they take in IDLE and before ENTER commits. If its first high run comes less than RESET_CYC
cycles after the last high run, it continues that frame and the reference decoder reads the concatenation of the two byte
sequences; else that frame is latched as it was and the bytes stand in a frame of their own. So the length of the low
time between the two alone decides. -/
def Obligations.TransmitWithoutLatchContinuesTheFrame : Prop :=
  ∀ (s : State) (w : Nat) (rest : List HostStep) (n : Nat) (before : List LineFrame) (f : LineFrame),
    s.phase = Phase.idle → s.pin = false → s.host = .command w :: rest →
    decodeCommand s.cfg.lenBits w = .instr (.transmit n) →
    s.noReset → s.P_NoUnmaskable → s.endsLow → n ≠ 0 →
    lineFrames s.cfg s.trace = before ++ [f] → f.latched = false → f.highs.length % 8 = 0 →
    s.cfg.V4 → s.cfg.V5 → s.cfg.V6 → s.cfg.V7 →
    ∃ k t stolen, s.returnsIn k rest t ∧ (s.quietUntilEnter → k = 3 + 57 * n ∧ stolen = 0) ∧
      t.now = s.now + stolen + (s.cfg.cEnter + 8 * n * s.cfg.tcell + s.cfg.cExit) ∧
      (s.tailLow + stolen + s.cfg.cEnter + s.cfg.cRise < s.cfg.resetCyc →
        ∃ g, lineFrames t.cfg t.trace = before ++ [g] ∧
          g.highs = f.highs ++ (bitsOfBytes (s.fbBytes n)).map s.cfg.th ∧
          decodeBytes t.cfg g = decodeBytes s.cfg f ++ s.fbBytes n) ∧
      (s.cfg.resetCyc ≤ s.tailLow + stolen + s.cfg.cEnter + s.cfg.cRise →
        ∃ g, lineFrames t.cfg t.trace = before ++ [{ f with latched := true }, g] ∧
          g.highs = (bitsOfBytes (s.fbBytes n)).map s.cfg.th ∧ decodeBytes t.cfg g = s.fbBytes n)

/-- 30_encoding.md R77 (a part of 45_line_observation.md R171): from reset, whatever the Host and the maskable sources
do, when the block is in IDLE every high run on the line has length TH0 or TH1, and no high run is open at the end that
the next TRANSMIT could grow. Under V6, without a source that ignores IE. -/
def Obligations.OnlySymbolsReachTheLine : Prop :=
  ∀ (c : Cfg) (h : List HostStep) (p : List Interrupt) (r : List Bool) (n : Nat) (t : State), c.V6 →
    (∀ k, Interrupt.preemptNM k ∉ p) → runSteps n (State.afterReset c 0 0 h p r) = .next t → t.phase = Phase.idle →
    (∀ x ∈ highRuns (runs t.trace), x = c.th0 ∨ x = c.th1) ∧ t.endsLow

/-- 45_line_observation.md R176 with 10_state.md R38 and 70_reset_and_hazards.md R222: RXBITS. The bits of the last line
frame, thresholded, while it is not latched, and none when it is or when there is no frame; none after a closed reset gap;
after a TRANSMIT of N ≥ 1 bytes on a fresh line, at the first return to IDLE and whatever the maskable sources do, the
bits of those bytes in the order sent, unless the line has already been low for a reset gap. State.rxBits is this from the first latch of a frame of 3 × NPIX bytes on (before it, a free
value, log entry 15) in a run whose observation is defined, also while the frame holds a low run that the Receiver may
have taken for a gap (log entry 27). -/
def Obligations.RxBitsAreTheBitsNotYetLatched : Prop :=
  (∀ (c : Cfg) (t : Trace), (lineFrames c t = [] → rxBitsOf c t = []) ∧
    ∀ (before : List LineFrame) (f : LineFrame), lineFrames c t = before ++ [f] →
      rxBitsOf c t = if f.latched then [] else f.highs.map (decodeBit c)) ∧
  (∀ (c : Cfg) (t : Trace), endsInGap c.resetCyc t = true → rxBitsOf c t = []) ∧
  (∀ (s : State) (w : Nat) (rest : List HostStep) (n : Nat), s.phase = Phase.idle → s.pin = false →
    s.host = .command w :: rest → decodeCommand s.cfg.lenBits w = .instr (.transmit n) →
    s.noReset → s.P_NoUnmaskable → s.freshLine → n ≠ 0 →
    s.cfg.V4 → s.cfg.V5 → s.cfg.V6 → s.cfg.V7 →
    ∃ k t, s.returnsIn k rest t ∧ (s.quietUntilEnter → k = 3 + 57 * n) ∧
      rxBitsOf t.cfg t.trace =
        if endsInGap t.cfg.resetCyc t.trace = true then [] else bitsOfBytes (s.fbBytes n)) ∧
  (∀ (s : State) (before after : List LineFrame) (f : LineFrame), s.line ≠ .lost →
    lineFrames s.cfg s.trace = before ++ f :: after → f.latched = true →
    (decodeBytes s.cfg f).length = 3 * s.cfg.nPix → s.rxBits = some (rxBitsOf s.cfg s.trace))

/-- 45_line_observation.md R186, 93_implementation_defined.md U7: with OE = 0 the block runs the same operations and
changes the same registers; the cycles it lets pass are recorded as undriven (10_state.md R33); and the observation of
the run is refused from then on, until a system reset. (The ghosts that say so, `oeTrace` and `line`, are the model's,
log entry 10.) -/
def Obligations.UndrivenCommandsRunUnobserved : Prop :=
  (∀ (i : Instr) (s t : State), (i.format = .cmd → s.phase = Phase.idle) → exec i s = .next t →
    ∃ u, exec i { s with oe := false } = .next u ∧
      u = { t with oe := false, oeTrace := s.oeTrace.push false (s.cfg.cost i), line := .lost } ∧
      u.waveform = none ∧ u.rxBits = none) ∧
  (∀ s t : State, s.line = .lost → s.rst.head? ≠ some true → step s = .next t → t.line = .lost)

/-- 45_line_observation.md R180 with R184 and R223: under V4 to V8 and P_OE, in a run whose observation is defined, SHOW
of NPIX pixels on a fresh line, with any idle times before and between its lines, any directives behind them and whatever
the maskable sources do, ends, and at the end of the run LED[k] = P_k for every device k and no bit is held back.
Without preemption it takes a step for each action of the Host up to the last command and 3 + 57 (3 NPIX) more, those of
the two commands after their acceptance. When only idle time comes behind, it stays so, however much time passes. -/
def Obligations.ShowEndsWithThePixelsOnTheString : Prop :=
  ∀ (s : State) (pixels : List Rgb), s.phase = Phase.idle → s.pin = false → s.lineAgrees → s.line ≠ .lost →
    s.P_OE → s.P_NoUnmaskable →
    (commandPart s.host).filter (fun h => !h.isIdle) = showSteps s.cfg.lenBits pixels → s.P_HostFrame [pixels] →
    s.freshLine → 0 < s.cfg.nPix → s.cfg.V4 → s.cfg.V5 → s.cfg.V6 → s.cfg.V7 → s.cfg.V8 →
    ∃ k t, s.endsIn k t ∧ (s.silent → k = (commandPart s.host).length + (3 + 57 * (3 * s.cfg.nPix))) ∧
      t.waveform = some (runs t.trace) ∧ t.rxBits = some [] ∧ (∀ d, d < s.cfg.nPix → t.led d = pixels[d]?) ∧
      ((∀ h ∈ t.host, h.isIdle = true) → ∀ m u, runSteps m t = .next u →
        u.ended ∧ u.waveform = some (runs u.trace) ∧ u.rxBits = some [] ∧ ∀ d, d < s.cfg.nPix → u.led d = pixels[d]?)

/-! Timing. -/

/-- 43_timing_profile.md R152: `cyc` is the number of cycles nearest to the duration, ties up; `cycUp` the least number
not shorter and `cycDown` the greatest not longer; n cycles last n × 10^9 / F_HZ nanoseconds. -/
def Obligations.ConversionsRoundAsStated : Prop :=
  ∀ (c : Cfg) (t : Nat), 0 < c.fHz →
    (∀ n : Nat, c.ns n = (n : Rat) * 10 ^ 9 / (c.fHz : Rat)) ∧
    c.cyc t = (2 * t * c.fHz + 10 ^ 9) / (2 * 10 ^ 9) ∧
    (∀ n : Nat, c.cyc t = n ↔
      (n : Rat) - 1 / 2 ≤ (t : Rat) * c.fHz / 10 ^ 9 ∧ (t : Rat) * c.fHz / 10 ^ 9 < (n : Rat) + 1 / 2) ∧
    (∀ n : Nat, c.cycUp t ≤ n ↔ (t : Rat) ≤ c.ns n) ∧
    (∀ n : Nat, n ≤ c.cycDown t ↔ c.ns n ≤ (t : Rat))

/-- 43_timing_profile.md R160: RESET_CYC is the least number of cycles that lasts at least TRESET_NS
nanoseconds; the build's T_LATCH is not below it; with TRESET_NS = 50000 it is 400 at 8 MHz, 800 at 16 MHz, 825 at 16.5 MHz, 50 at 1 MHz. -/
def Obligations.ResetCyclesAreTheLeastThatLast : Prop :=
  (∀ (c : Cfg) (k : Nat), 0 < c.fHz → (c.resetCyc ≤ k ↔ (c.tresetNs : Rat) ≤ c.ns k)) ∧
  Config.build.resetCyc ≤ Config.build.tLatch ∧
  (∀ c : Cfg, c.tresetNs = 50000 →
    (c.fHz = 8000000 → c.resetCyc = 400) ∧ (c.fHz = 16000000 → c.resetCyc = 800) ∧
    (c.fHz = 16500000 → c.resetCyc = 825) ∧ (c.fHz = 1000000 → c.resetCyc = 50))

/-- 43_timing_profile.md R153: the derived BASE, DELTA, FINAL; each duration is exactly its rounded nominal when no
subtraction truncates. And only then: by R154 a subtraction that truncates leaves the duration longer, as in its two
worked cases, of which the first is still valid by V1 and the second is not. -/
def Obligations.DerivedProfileHitsTheNominals : Prop :=
  ∀ c : Cfg,
    c.derive.base = c.cyc c.t0hNs - c.ovhH0 ∧
    c.derive.delta = (c.cyc c.t1hNs - c.ovhH1) - c.derive.base ∧
    c.derive.final = ((c.cyc c.tbitNs - c.ovhCell) - c.derive.base) - c.derive.delta ∧
    (c.derive.th0 = c.cyc c.t0hNs ↔ c.ovhH0 ≤ c.cyc c.t0hNs) ∧
    (c.derive.th1 = c.cyc c.t1hNs ↔ c.ovhH1 ≤ c.cyc c.t1hNs ∧ c.derive.base ≤ c.cyc c.t1hNs - c.ovhH1) ∧
    (c.derive.tcell = c.cyc c.tbitNs ↔ c.ovhCell ≤ c.cyc c.tbitNs ∧
      c.derive.base ≤ c.cyc c.tbitNs - c.ovhCell ∧ c.derive.delta ≤ c.cyc c.tbitNs - c.ovhCell - c.derive.base) ∧
    (c.cyc c.t0hNs ≤ c.derive.th0 ∧ c.cyc c.t1hNs ≤ c.derive.th1 ∧ c.cyc c.tbitNs ≤ c.derive.tcell) ∧
    (let d := ({ c.cfgC with fHz := 8000000 } : Cfg).derive
     (d.cyc d.t0hNs, d.cyc d.t1hNs, d.cyc d.tbitNs) = (3, 7, 10) ∧ (d.base, d.delta, d.final) = (1, 2, 0) ∧
       (d.th0, d.th1, d.tcell) = (3, 7, 11) ∧ d.V1) ∧
    (let d := ({ c.cfgA with fHz := 1000000 } : Cfg).derive
     (d.cyc d.t0hNs, d.cyc d.t1hNs, d.cyc d.tbitNs) = (0, 1, 1) ∧ (d.base, d.delta, d.final) = (0, 0, 0) ∧
       (d.th0, d.th1, d.tcell) = (1, 2, 3) ∧ ¬ d.V1)

/-- 43_timing_profile.md R165: the three reference configurations. Each is its own derivation by R153, with the table's
conversions, overheads, durations in cycles and nanoseconds, low times, RESET_CYC and T_LATCH; V1 and V4 to V8 hold; and
CFG_C has the waveform of CFG_B inside the cells. The fields that R165 leaves out are those of any `c`. -/
def Obligations.ReferenceConfigurationsMatchTheTable : Prop :=
  ∀ c : Cfg,
    (let a := c.cfgA
     a.derive = a ∧ (a.fHz, a.lenBits) = (8000000, 16) ∧
     (a.cEnter, a.cRise, a.cCond, a.cFall, a.cLoop, a.cExit) = (1, 1, 1, 1, 0, 1) ∧
     (a.cyc 400, a.cyc 850, a.cyc 1250) = (3, 7, 10) ∧ (a.ovhH0, a.ovhH1, a.ovhCell) = (1, 2, 3) ∧
     (a.base, a.delta, a.final) = (2, 3, 2) ∧ (a.th0, a.th1, a.tcell, a.tl0, a.tl1) = (3, 7, 10, 7, 3) ∧
     (a.ns a.th0, a.ns a.th1, a.ns a.tcell) = (375, 875, 1250) ∧ (a.resetCyc, a.tLatch) = (400, 400) ∧
     a.V1 ∧ a.V4 ∧ a.V5 ∧ a.V6 ∧ a.V7 ∧ a.V8) ∧
    (let b := c.cfgB
     b.derive = b ∧ (b.fHz, b.lenBits) = (16000000, 16) ∧
     (b.cEnter, b.cRise, b.cCond, b.cFall, b.cLoop, b.cExit) = (1, 1, 1, 1, 0, 1) ∧
     (b.cyc 400, b.cyc 850, b.cyc 1250) = (6, 14, 20) ∧ (b.ovhH0, b.ovhH1, b.ovhCell) = (1, 2, 3) ∧
     (b.base, b.delta, b.final) = (5, 7, 5) ∧ (b.th0, b.th1, b.tcell, b.tl0, b.tl1) = (6, 14, 20, 14, 6) ∧
     (b.ns b.th0, b.ns b.th1, b.ns b.tcell) = (375, 875, 1250) ∧ (b.resetCyc, b.tLatch) = (800, 800) ∧
     b.V1 ∧ b.V4 ∧ b.V5 ∧ b.V6 ∧ b.V7 ∧ b.V8) ∧
    (let d := c.cfgC
     d.derive = d ∧ (d.fHz, d.lenBits) = (16000000, 16) ∧
     (d.cEnter, d.cRise, d.cCond, d.cFall, d.cLoop, d.cExit) = (2, 1, 2, 2, 3, 1) ∧
     (d.cyc 400, d.cyc 850, d.cyc 1250) = (6, 14, 20) ∧ (d.ovhH0, d.ovhH1, d.ovhCell) = (2, 4, 8) ∧
     (d.base, d.delta, d.final) = (4, 6, 2) ∧ (d.th0, d.th1, d.tcell, d.tl0, d.tl1) = (6, 14, 20, 14, 6) ∧
     (d.ns d.th0, d.ns d.th1, d.ns d.tcell) = (375, 875, 1250) ∧ (d.resetCyc, d.tLatch) = (800, 800) ∧
     d.V1 ∧ d.V4 ∧ d.V5 ∧ d.V6 ∧ d.V7 ∧ d.V8) ∧
    (∀ b, cellTrace c.cfgC b = cellTrace c.cfgB b) ∧
    (c.cfgA.t0hNs, c.cfgA.t1hNs, c.cfgA.tbitNs, c.cfgA.tresetNs) = (400, 850, 1250, 50000) ∧
    (c.cfgB.t0hNs, c.cfgB.t1hNs, c.cfgB.tbitNs, c.cfgB.tresetNs) = (400, 850, 1250, 50000) ∧
    (c.cfgC.t0hNs, c.cfgC.t1hNs, c.cfgC.tbitNs, c.cfgC.tresetNs) = (400, 850, 1250, 50000)

/-! The end of a run. -/

/-- 45_line_observation.md R184 with 40_transmit.md R120: every run ends. From any state in IDLE whose Host presents
legal commands only, whatever resets and preemptions come, sources that ignore IE included, a state is reached in which
every command has been accepted and PHASE = IDLE; each reset and each request for a preemption costs at most one step
more. The directives behind the last command are then carried out too. (That the Host's list survives a reset is log
entry 9.) -/
def Obligations.EveryRunEnds : Prop :=
  ∀ s : State, s.phase = Phase.idle →
    (∀ w, HostStep.command w ∈ s.host → ∃ i, decodeCommand s.cfg.lenBits w = .instr i) →
    (∃ k t, s.endsIn k t ∧ k ≤ s.disturbances + ((commandPart s.host).map (HostStep.steps s.cfg)).sum) ∧
    (∃ k t, runSteps k s = .next t ∧ t.phase = Phase.idle ∧ t.host = [] ∧
      k ≤ s.disturbances + (s.host.map (HostStep.steps s.cfg)).sum)
end

