-- ==== Sys2Proof/Laws/Decode.lean ====
section
/-! SUPPORT. What a command word that decodes is, said once: later proofs cite it instead of unfolding the decoder. -/

namespace Sys2Proof

/-- A word that decodes to TRANSMIT(N) is `2 ^ LEN_BITS + N`, with N inside its field. -/
theorem decodeCommand_transmit {lenBits w n : Nat} (h : decodeCommand lenBits w = .instr (.transmit n)) :
    w = 2 ^ lenBits + n ∧ n < 2 ^ lenBits := by
  have hpos : 0 < 2 ^ lenBits := Nat.two_pow_pos lenBits
  unfold decodeCommand at h
  split at h
  · rename_i hlt
    have hop : w / 2 ^ lenBits < 4 := by
      rw [Nat.div_lt_iff_lt_mul hpos, show 4 = 2 ^ 2 from rfl, ← Nat.pow_add]
      exact hlt
    have hmod : w % 2 ^ lenBits < 2 ^ lenBits := Nat.mod_lt _ hpos
    have hdiv := Nat.div_add_mod w (2 ^ lenBits)
    split at h
    · cases h
    · rename_i h1
      cases h
      have h2 : w / 2 ^ lenBits = 1 := by
        simpa [cmdOp, Nat.mod_eq_of_lt hop] using h1
      rw [h2, Nat.mul_one] at hdiv
      exact ⟨hdiv.symm, hmod⟩
    · cases h
    · cases h
  · cases h

/-- A command word decodes to a command. -/
theorem decodeCommand_format {lenBits w : Nat} {i : Instr} (h : decodeCommand lenBits w = .instr i) :
    (∃ n, i = .transmit n) ∨ i = .latch := by
  unfold decodeCommand at h
  split at h
  · split at h <;> cases h
    · exact .inl ⟨_, rfl⟩
    · exact .inr rfl
  · cases h

end Sys2Proof
end

