-- ==== Sys2Proof/Laws/State.lean ====
section
/-! SUPPORT. What each named update of State leaves in each field: one lemma per field per update. -/

namespace Sys2Proof.Machine

variable (s : State)

/-! `State.emit` -/

@[simp] theorem State.emit_cfg (k : Nat) : (s.emit k).cfg = s.cfg := rfl
@[simp] theorem State.emit_phase (k : Nat) : (s.emit k).phase = s.phase := rfl
@[simp] theorem State.emit_len (k : Nat) : (s.emit k).len = s.len := rfl
@[simp] theorem State.emit_idx (k : Nat) : (s.emit k).idx = s.idx := rfl
@[simp] theorem State.emit_bitcnt (k : Nat) : (s.emit k).bitcnt = s.bitcnt := rfl
@[simp] theorem State.emit_shreg (k : Nat) : (s.emit k).shreg = s.shreg := rfl
@[simp] theorem State.emit_ieSaved (k : Nat) : (s.emit k).ieSaved = s.ieSaved := rfl
@[simp] theorem State.emit_pin (k : Nat) : (s.emit k).pin = s.pin := rfl
@[simp] theorem State.emit_ie (k : Nat) : (s.emit k).ie = s.ie := rfl
@[simp] theorem State.emit_oe (k : Nat) : (s.emit k).oe = s.oe := rfl
@[simp] theorem State.emit_fb (k : Nat) : (s.emit k).fb = s.fb := rfl
@[simp] theorem State.emit_trace (k : Nat) : (s.emit k).trace = s.trace.push s.pin k := rfl
@[simp] theorem State.emit_oeTrace (k : Nat) : (s.emit k).oeTrace = s.oeTrace.push s.oe k := rfl
@[simp] theorem State.emit_now (k : Nat) : (s.emit k).now = s.now + k := rfl
@[simp] theorem State.emit_line (k : Nat) : (s.emit k).line = s.line := rfl
@[simp] theorem State.emit_host (k : Nat) : (s.emit k).host = s.host := rfl
@[simp] theorem State.emit_preemptor (k : Nat) : (s.emit k).preemptor = s.preemptor := rfl
@[simp] theorem State.emit_rst (k : Nat) : (s.emit k).rst = s.rst := rfl
@[simp] theorem State.emit_resets (k : Nat) : (s.emit k).resets = s.resets := rfl
@[simp] theorem State.emit_fbGen (k : Nat) : (s.emit k).fbGen = s.fbGen := rfl

/-! `State.spend` -/

@[simp] theorem State.spend_cfg (k : Nat) : (s.spend k).cfg = s.cfg := rfl
@[simp] theorem State.spend_phase (k : Nat) : (s.spend k).phase = s.phase := rfl
@[simp] theorem State.spend_len (k : Nat) : (s.spend k).len = s.len := rfl
@[simp] theorem State.spend_idx (k : Nat) : (s.spend k).idx = s.idx := rfl
@[simp] theorem State.spend_bitcnt (k : Nat) : (s.spend k).bitcnt = s.bitcnt := rfl
@[simp] theorem State.spend_shreg (k : Nat) : (s.spend k).shreg = s.shreg := rfl
@[simp] theorem State.spend_ieSaved (k : Nat) : (s.spend k).ieSaved = s.ieSaved := rfl
@[simp] theorem State.spend_pin (k : Nat) : (s.spend k).pin = s.pin := rfl
@[simp] theorem State.spend_ie (k : Nat) : (s.spend k).ie = s.ie := rfl
@[simp] theorem State.spend_oe (k : Nat) : (s.spend k).oe = s.oe := rfl
@[simp] theorem State.spend_fb (k : Nat) : (s.spend k).fb = s.fb := rfl
@[simp] theorem State.spend_trace (k : Nat) : (s.spend k).trace = s.trace.push s.pin k := rfl
@[simp] theorem State.spend_oeTrace (k : Nat) : (s.spend k).oeTrace = s.oeTrace.push s.oe k := rfl
@[simp] theorem State.spend_now (k : Nat) : (s.spend k).now = s.now + k := rfl
@[simp] theorem State.spend_line (k : Nat) : (s.spend k).line = s.line.use s.oe := rfl
@[simp] theorem State.spend_host (k : Nat) : (s.spend k).host = s.host := rfl
@[simp] theorem State.spend_preemptor (k : Nat) : (s.spend k).preemptor = s.preemptor := rfl
@[simp] theorem State.spend_rst (k : Nat) : (s.spend k).rst = s.rst := rfl
@[simp] theorem State.spend_resets (k : Nat) : (s.spend k).resets = s.resets := rfl
@[simp] theorem State.spend_fbGen (k : Nat) : (s.spend k).fbGen = s.fbGen := rfl

/-! `State.steal` -/

@[simp] theorem State.steal_cfg (k : Nat) : (s.steal k).cfg = s.cfg := rfl
@[simp] theorem State.steal_phase (k : Nat) : (s.steal k).phase = s.phase := rfl
@[simp] theorem State.steal_len (k : Nat) : (s.steal k).len = s.len := rfl
@[simp] theorem State.steal_idx (k : Nat) : (s.steal k).idx = s.idx := rfl
@[simp] theorem State.steal_bitcnt (k : Nat) : (s.steal k).bitcnt = s.bitcnt := rfl
@[simp] theorem State.steal_shreg (k : Nat) : (s.steal k).shreg = s.shreg := rfl
@[simp] theorem State.steal_ieSaved (k : Nat) : (s.steal k).ieSaved = s.ieSaved := rfl
@[simp] theorem State.steal_pin (k : Nat) : (s.steal k).pin = s.pin := rfl
@[simp] theorem State.steal_ie (k : Nat) : (s.steal k).ie = s.ie := rfl
@[simp] theorem State.steal_oe (k : Nat) : (s.steal k).oe = s.oe := rfl
@[simp] theorem State.steal_fb (k : Nat) : (s.steal k).fb = s.fb := rfl
@[simp] theorem State.steal_trace (k : Nat) : (s.steal k).trace = s.trace.push s.pin k := rfl
@[simp] theorem State.steal_oeTrace (k : Nat) : (s.steal k).oeTrace = s.oeTrace.push s.oe k := rfl
@[simp] theorem State.steal_now (k : Nat) : (s.steal k).now = s.now + k := rfl
@[simp] theorem State.steal_line (k : Nat) : (s.steal k).line = s.line := rfl
@[simp] theorem State.steal_host (k : Nat) : (s.steal k).host = s.host := rfl
@[simp] theorem State.steal_preemptor (k : Nat) : (s.steal k).preemptor = s.preemptor := rfl
@[simp] theorem State.steal_rst (k : Nat) : (s.steal k).rst = s.rst := rfl
@[simp] theorem State.steal_resets (k : Nat) : (s.steal k).resets = s.resets := rfl
@[simp] theorem State.steal_fbGen (k : Nat) : (s.steal k).fbGen = s.fbGen := rfl

/-! `State.idleFor` -/

@[simp] theorem State.idleFor_cfg (k : Nat) : (s.idleFor k).cfg = s.cfg := rfl
@[simp] theorem State.idleFor_phase (k : Nat) : (s.idleFor k).phase = s.phase := rfl
@[simp] theorem State.idleFor_len (k : Nat) : (s.idleFor k).len = s.len := rfl
@[simp] theorem State.idleFor_idx (k : Nat) : (s.idleFor k).idx = s.idx := rfl
@[simp] theorem State.idleFor_bitcnt (k : Nat) : (s.idleFor k).bitcnt = s.bitcnt := rfl
@[simp] theorem State.idleFor_shreg (k : Nat) : (s.idleFor k).shreg = s.shreg := rfl
@[simp] theorem State.idleFor_ieSaved (k : Nat) : (s.idleFor k).ieSaved = s.ieSaved := rfl
@[simp] theorem State.idleFor_pin (k : Nat) : (s.idleFor k).pin = s.pin := rfl
@[simp] theorem State.idleFor_ie (k : Nat) : (s.idleFor k).ie = s.ie := rfl
@[simp] theorem State.idleFor_oe (k : Nat) : (s.idleFor k).oe = s.oe := rfl
@[simp] theorem State.idleFor_fb (k : Nat) : (s.idleFor k).fb = s.fb := rfl
@[simp] theorem State.idleFor_trace (k : Nat) : (s.idleFor k).trace = s.trace.push s.pin k := rfl
@[simp] theorem State.idleFor_oeTrace (k : Nat) : (s.idleFor k).oeTrace = s.oeTrace.push s.oe k := rfl
@[simp] theorem State.idleFor_now (k : Nat) : (s.idleFor k).now = s.now + k := rfl
@[simp] theorem State.idleFor_line (k : Nat) : (s.idleFor k).line = s.line := rfl
@[simp] theorem State.idleFor_host (k : Nat) : (s.idleFor k).host = s.host := rfl
@[simp] theorem State.idleFor_preemptor (k : Nat) : (s.idleFor k).preemptor = s.preemptor := rfl
@[simp] theorem State.idleFor_rst (k : Nat) : (s.idleFor k).rst = s.rst := rfl
@[simp] theorem State.idleFor_resets (k : Nat) : (s.idleFor k).resets = s.resets := rfl
@[simp] theorem State.idleFor_fbGen (k : Nat) : (s.idleFor k).fbGen = s.fbGen := rfl

/-! `State.goto` -/

@[simp] theorem State.goto_cfg (p : PhaseCode) : (s.goto p).cfg = s.cfg := rfl
@[simp] theorem State.goto_phase (p : PhaseCode) : (s.goto p).phase = p := rfl
@[simp] theorem State.goto_len (p : PhaseCode) : (s.goto p).len = s.len := rfl
@[simp] theorem State.goto_idx (p : PhaseCode) : (s.goto p).idx = s.idx := rfl
@[simp] theorem State.goto_bitcnt (p : PhaseCode) : (s.goto p).bitcnt = s.bitcnt := rfl
@[simp] theorem State.goto_shreg (p : PhaseCode) : (s.goto p).shreg = s.shreg := rfl
@[simp] theorem State.goto_ieSaved (p : PhaseCode) : (s.goto p).ieSaved = s.ieSaved := rfl
@[simp] theorem State.goto_pin (p : PhaseCode) : (s.goto p).pin = s.pin := rfl
@[simp] theorem State.goto_ie (p : PhaseCode) : (s.goto p).ie = s.ie := rfl
@[simp] theorem State.goto_oe (p : PhaseCode) : (s.goto p).oe = s.oe := rfl
@[simp] theorem State.goto_fb (p : PhaseCode) : (s.goto p).fb = s.fb := rfl
@[simp] theorem State.goto_trace (p : PhaseCode) : (s.goto p).trace = s.trace := rfl
@[simp] theorem State.goto_oeTrace (p : PhaseCode) : (s.goto p).oeTrace = s.oeTrace := rfl
@[simp] theorem State.goto_now (p : PhaseCode) : (s.goto p).now = s.now := rfl
@[simp] theorem State.goto_line (p : PhaseCode) : (s.goto p).line = s.line := rfl
@[simp] theorem State.goto_host (p : PhaseCode) : (s.goto p).host = s.host := rfl
@[simp] theorem State.goto_preemptor (p : PhaseCode) : (s.goto p).preemptor = s.preemptor := rfl
@[simp] theorem State.goto_rst (p : PhaseCode) : (s.goto p).rst = s.rst := rfl
@[simp] theorem State.goto_resets (p : PhaseCode) : (s.goto p).resets = s.resets := rfl
@[simp] theorem State.goto_fbGen (p : PhaseCode) : (s.goto p).fbGen = s.fbGen := rfl

/-! `State.drive` -/

@[simp] theorem State.drive_cfg (v : Level) : (s.drive v).cfg = s.cfg := rfl
@[simp] theorem State.drive_phase (v : Level) : (s.drive v).phase = s.phase := rfl
@[simp] theorem State.drive_len (v : Level) : (s.drive v).len = s.len := rfl
@[simp] theorem State.drive_idx (v : Level) : (s.drive v).idx = s.idx := rfl
@[simp] theorem State.drive_bitcnt (v : Level) : (s.drive v).bitcnt = s.bitcnt := rfl
@[simp] theorem State.drive_shreg (v : Level) : (s.drive v).shreg = s.shreg := rfl
@[simp] theorem State.drive_ieSaved (v : Level) : (s.drive v).ieSaved = s.ieSaved := rfl
@[simp] theorem State.drive_pin (v : Level) : (s.drive v).pin = v := rfl
@[simp] theorem State.drive_ie (v : Level) : (s.drive v).ie = s.ie := rfl
@[simp] theorem State.drive_oe (v : Level) : (s.drive v).oe = s.oe := rfl
@[simp] theorem State.drive_fb (v : Level) : (s.drive v).fb = s.fb := rfl
@[simp] theorem State.drive_trace (v : Level) : (s.drive v).trace = s.trace := rfl
@[simp] theorem State.drive_oeTrace (v : Level) : (s.drive v).oeTrace = s.oeTrace := rfl
@[simp] theorem State.drive_now (v : Level) : (s.drive v).now = s.now := rfl
@[simp] theorem State.drive_line (v : Level) : (s.drive v).line = s.line := rfl
@[simp] theorem State.drive_host (v : Level) : (s.drive v).host = s.host := rfl
@[simp] theorem State.drive_preemptor (v : Level) : (s.drive v).preemptor = s.preemptor := rfl
@[simp] theorem State.drive_rst (v : Level) : (s.drive v).rst = s.rst := rfl
@[simp] theorem State.drive_resets (v : Level) : (s.drive v).resets = s.resets := rfl
@[simp] theorem State.drive_fbGen (v : Level) : (s.drive v).fbGen = s.fbGen := rfl

/-! `State.acceptTransmit` -/

@[simp] theorem State.acceptTransmit_cfg (n : Nat) : (s.acceptTransmit n).cfg = s.cfg := rfl
@[simp] theorem State.acceptTransmit_phase (n : Nat) : (s.acceptTransmit n).phase = Phase.enter := rfl
@[simp] theorem State.acceptTransmit_len (n : Nat) : (s.acceptTransmit n).len = n % 2 ^ s.cfg.lenBits := rfl
@[simp] theorem State.acceptTransmit_idx (n : Nat) : (s.acceptTransmit n).idx = 0 := rfl
@[simp] theorem State.acceptTransmit_bitcnt (n : Nat) : (s.acceptTransmit n).bitcnt = s.bitcnt := rfl
@[simp] theorem State.acceptTransmit_shreg (n : Nat) : (s.acceptTransmit n).shreg = s.shreg := rfl
@[simp] theorem State.acceptTransmit_ieSaved (n : Nat) : (s.acceptTransmit n).ieSaved = s.ieSaved := rfl
@[simp] theorem State.acceptTransmit_pin (n : Nat) : (s.acceptTransmit n).pin = s.pin := rfl
@[simp] theorem State.acceptTransmit_ie (n : Nat) : (s.acceptTransmit n).ie = s.ie := rfl
@[simp] theorem State.acceptTransmit_oe (n : Nat) : (s.acceptTransmit n).oe = s.oe := rfl
@[simp] theorem State.acceptTransmit_fb (n : Nat) : (s.acceptTransmit n).fb = s.fb := rfl
@[simp] theorem State.acceptTransmit_trace (n : Nat) : (s.acceptTransmit n).trace = s.trace := rfl
@[simp] theorem State.acceptTransmit_oeTrace (n : Nat) : (s.acceptTransmit n).oeTrace = s.oeTrace := rfl
@[simp] theorem State.acceptTransmit_now (n : Nat) : (s.acceptTransmit n).now = s.now := rfl
@[simp] theorem State.acceptTransmit_line (n : Nat) : (s.acceptTransmit n).line = s.line.use s.oe := rfl
@[simp] theorem State.acceptTransmit_host (n : Nat) : (s.acceptTransmit n).host = s.host := rfl
@[simp] theorem State.acceptTransmit_preemptor (n : Nat) : (s.acceptTransmit n).preemptor = s.preemptor := rfl
@[simp] theorem State.acceptTransmit_rst (n : Nat) : (s.acceptTransmit n).rst = s.rst := rfl
@[simp] theorem State.acceptTransmit_resets (n : Nat) : (s.acceptTransmit n).resets = s.resets := rfl
@[simp] theorem State.acceptTransmit_fbGen (n : Nat) : (s.acceptTransmit n).fbGen = s.fbGen := rfl

/-! `State.acceptLatch` -/

@[simp] theorem State.acceptLatch_cfg : s.acceptLatch.cfg = s.cfg := rfl
@[simp] theorem State.acceptLatch_phase : s.acceptLatch.phase = Phase.holdr := rfl
@[simp] theorem State.acceptLatch_len : s.acceptLatch.len = s.len := rfl
@[simp] theorem State.acceptLatch_idx : s.acceptLatch.idx = s.idx := rfl
@[simp] theorem State.acceptLatch_bitcnt : s.acceptLatch.bitcnt = s.bitcnt := rfl
@[simp] theorem State.acceptLatch_shreg : s.acceptLatch.shreg = s.shreg := rfl
@[simp] theorem State.acceptLatch_ieSaved : s.acceptLatch.ieSaved = s.ieSaved := rfl
@[simp] theorem State.acceptLatch_pin : s.acceptLatch.pin = s.pin := rfl
@[simp] theorem State.acceptLatch_ie : s.acceptLatch.ie = s.ie := rfl
@[simp] theorem State.acceptLatch_oe : s.acceptLatch.oe = s.oe := rfl
@[simp] theorem State.acceptLatch_fb : s.acceptLatch.fb = s.fb := rfl
@[simp] theorem State.acceptLatch_trace : s.acceptLatch.trace = s.trace := rfl
@[simp] theorem State.acceptLatch_oeTrace : s.acceptLatch.oeTrace = s.oeTrace := rfl
@[simp] theorem State.acceptLatch_now : s.acceptLatch.now = s.now := rfl
@[simp] theorem State.acceptLatch_line : s.acceptLatch.line = s.line.use s.oe := rfl
@[simp] theorem State.acceptLatch_host : s.acceptLatch.host = s.host := rfl
@[simp] theorem State.acceptLatch_preemptor : s.acceptLatch.preemptor = s.preemptor := rfl
@[simp] theorem State.acceptLatch_rst : s.acceptLatch.rst = s.rst := rfl
@[simp] theorem State.acceptLatch_resets : s.acceptLatch.resets = s.resets := rfl
@[simp] theorem State.acceptLatch_fbGen : s.acceptLatch.fbGen = s.fbGen := rfl

/-! `State.acquire` -/

@[simp] theorem State.acquire_cfg : s.acquire.cfg = s.cfg := rfl
@[simp] theorem State.acquire_phase : s.acquire.phase = s.phase := rfl
@[simp] theorem State.acquire_len : s.acquire.len = s.len := rfl
@[simp] theorem State.acquire_idx : s.acquire.idx = s.idx := rfl
@[simp] theorem State.acquire_bitcnt : s.acquire.bitcnt = s.bitcnt := rfl
@[simp] theorem State.acquire_shreg : s.acquire.shreg = s.shreg := rfl
@[simp] theorem State.acquire_ieSaved : s.acquire.ieSaved = s.ie := rfl
@[simp] theorem State.acquire_pin : s.acquire.pin = s.pin := rfl
@[simp] theorem State.acquire_ie : s.acquire.ie = false := rfl
@[simp] theorem State.acquire_oe : s.acquire.oe = s.oe := rfl
@[simp] theorem State.acquire_fb : s.acquire.fb = s.fb := rfl
@[simp] theorem State.acquire_trace : s.acquire.trace = s.trace := rfl
@[simp] theorem State.acquire_oeTrace : s.acquire.oeTrace = s.oeTrace := rfl
@[simp] theorem State.acquire_now : s.acquire.now = s.now := rfl
@[simp] theorem State.acquire_line : s.acquire.line = s.line := rfl
@[simp] theorem State.acquire_host : s.acquire.host = s.host := rfl
@[simp] theorem State.acquire_preemptor : s.acquire.preemptor = s.preemptor := rfl
@[simp] theorem State.acquire_rst : s.acquire.rst = s.rst := rfl
@[simp] theorem State.acquire_resets : s.acquire.resets = s.resets := rfl
@[simp] theorem State.acquire_fbGen : s.acquire.fbGen = s.fbGen := rfl

/-! `State.release` -/

@[simp] theorem State.release_cfg : s.release.cfg = s.cfg := rfl
@[simp] theorem State.release_phase : s.release.phase = s.phase := rfl
@[simp] theorem State.release_len : s.release.len = s.len := rfl
@[simp] theorem State.release_idx : s.release.idx = s.idx := rfl
@[simp] theorem State.release_bitcnt : s.release.bitcnt = s.bitcnt := rfl
@[simp] theorem State.release_shreg : s.release.shreg = s.shreg := rfl
@[simp] theorem State.release_ieSaved : s.release.ieSaved = s.ieSaved := rfl
@[simp] theorem State.release_pin : s.release.pin = s.pin := rfl
@[simp] theorem State.release_ie : s.release.ie = s.ieSaved := rfl
@[simp] theorem State.release_oe : s.release.oe = s.oe := rfl
@[simp] theorem State.release_fb : s.release.fb = s.fb := rfl
@[simp] theorem State.release_trace : s.release.trace = s.trace := rfl
@[simp] theorem State.release_oeTrace : s.release.oeTrace = s.oeTrace := rfl
@[simp] theorem State.release_now : s.release.now = s.now := rfl
@[simp] theorem State.release_line : s.release.line = s.line := rfl
@[simp] theorem State.release_host : s.release.host = s.host := rfl
@[simp] theorem State.release_preemptor : s.release.preemptor = s.preemptor := rfl
@[simp] theorem State.release_rst : s.release.rst = s.rst := rfl
@[simp] theorem State.release_resets : s.release.resets = s.resets := rfl
@[simp] theorem State.release_fbGen : s.release.fbGen = s.fbGen := rfl

/-! `State.loadShift` -/

@[simp] theorem State.loadShift_cfg (b : Byte) : (s.loadShift b).cfg = s.cfg := rfl
@[simp] theorem State.loadShift_phase (b : Byte) : (s.loadShift b).phase = s.phase := rfl
@[simp] theorem State.loadShift_len (b : Byte) : (s.loadShift b).len = s.len := rfl
@[simp] theorem State.loadShift_idx (b : Byte) : (s.loadShift b).idx = s.idx := rfl
@[simp] theorem State.loadShift_bitcnt (b : Byte) : (s.loadShift b).bitcnt = 8#4 := rfl
@[simp] theorem State.loadShift_shreg (b : Byte) : (s.loadShift b).shreg = b := rfl
@[simp] theorem State.loadShift_ieSaved (b : Byte) : (s.loadShift b).ieSaved = s.ieSaved := rfl
@[simp] theorem State.loadShift_pin (b : Byte) : (s.loadShift b).pin = s.pin := rfl
@[simp] theorem State.loadShift_ie (b : Byte) : (s.loadShift b).ie = s.ie := rfl
@[simp] theorem State.loadShift_oe (b : Byte) : (s.loadShift b).oe = s.oe := rfl
@[simp] theorem State.loadShift_fb (b : Byte) : (s.loadShift b).fb = s.fb := rfl
@[simp] theorem State.loadShift_trace (b : Byte) : (s.loadShift b).trace = s.trace := rfl
@[simp] theorem State.loadShift_oeTrace (b : Byte) : (s.loadShift b).oeTrace = s.oeTrace := rfl
@[simp] theorem State.loadShift_now (b : Byte) : (s.loadShift b).now = s.now := rfl
@[simp] theorem State.loadShift_line (b : Byte) : (s.loadShift b).line = s.line := rfl
@[simp] theorem State.loadShift_host (b : Byte) : (s.loadShift b).host = s.host := rfl
@[simp] theorem State.loadShift_preemptor (b : Byte) : (s.loadShift b).preemptor = s.preemptor := rfl
@[simp] theorem State.loadShift_rst (b : Byte) : (s.loadShift b).rst = s.rst := rfl
@[simp] theorem State.loadShift_resets (b : Byte) : (s.loadShift b).resets = s.resets := rfl
@[simp] theorem State.loadShift_fbGen (b : Byte) : (s.loadShift b).fbGen = s.fbGen := rfl

/-! `State.shiftOut` -/

@[simp] theorem State.shiftOut_cfg : s.shiftOut.cfg = s.cfg := rfl
@[simp] theorem State.shiftOut_phase : s.shiftOut.phase = s.phase := rfl
@[simp] theorem State.shiftOut_len : s.shiftOut.len = s.len := rfl
@[simp] theorem State.shiftOut_idx : s.shiftOut.idx = s.idx := rfl
@[simp] theorem State.shiftOut_bitcnt : s.shiftOut.bitcnt = s.bitcnt - 1#4 := rfl
@[simp] theorem State.shiftOut_shreg : s.shiftOut.shreg = s.shreg <<< 1 := rfl
@[simp] theorem State.shiftOut_ieSaved : s.shiftOut.ieSaved = s.ieSaved := rfl
@[simp] theorem State.shiftOut_pin : s.shiftOut.pin = s.pin := rfl
@[simp] theorem State.shiftOut_ie : s.shiftOut.ie = s.ie := rfl
@[simp] theorem State.shiftOut_oe : s.shiftOut.oe = s.oe := rfl
@[simp] theorem State.shiftOut_fb : s.shiftOut.fb = s.fb := rfl
@[simp] theorem State.shiftOut_trace : s.shiftOut.trace = s.trace := rfl
@[simp] theorem State.shiftOut_oeTrace : s.shiftOut.oeTrace = s.oeTrace := rfl
@[simp] theorem State.shiftOut_now : s.shiftOut.now = s.now := rfl
@[simp] theorem State.shiftOut_line : s.shiftOut.line = s.line := rfl
@[simp] theorem State.shiftOut_host : s.shiftOut.host = s.host := rfl
@[simp] theorem State.shiftOut_preemptor : s.shiftOut.preemptor = s.preemptor := rfl
@[simp] theorem State.shiftOut_rst : s.shiftOut.rst = s.rst := rfl
@[simp] theorem State.shiftOut_resets : s.shiftOut.resets = s.resets := rfl
@[simp] theorem State.shiftOut_fbGen : s.shiftOut.fbGen = s.fbGen := rfl

/-! `State.advance` -/

@[simp] theorem State.advance_cfg : s.advance.cfg = s.cfg := rfl
@[simp] theorem State.advance_phase : s.advance.phase = s.phase := rfl
@[simp] theorem State.advance_len : s.advance.len = s.len := rfl
@[simp] theorem State.advance_idx : s.advance.idx = s.nextIdx := rfl
@[simp] theorem State.advance_bitcnt : s.advance.bitcnt = s.bitcnt := rfl
@[simp] theorem State.advance_shreg : s.advance.shreg = s.shreg := rfl
@[simp] theorem State.advance_ieSaved : s.advance.ieSaved = s.ieSaved := rfl
@[simp] theorem State.advance_pin : s.advance.pin = s.pin := rfl
@[simp] theorem State.advance_ie : s.advance.ie = s.ie := rfl
@[simp] theorem State.advance_oe : s.advance.oe = s.oe := rfl
@[simp] theorem State.advance_fb : s.advance.fb = s.fb := rfl
@[simp] theorem State.advance_trace : s.advance.trace = s.trace := rfl
@[simp] theorem State.advance_oeTrace : s.advance.oeTrace = s.oeTrace := rfl
@[simp] theorem State.advance_now : s.advance.now = s.now := rfl
@[simp] theorem State.advance_line : s.advance.line = s.line := rfl
@[simp] theorem State.advance_host : s.advance.host = s.host := rfl
@[simp] theorem State.advance_preemptor : s.advance.preemptor = s.preemptor := rfl
@[simp] theorem State.advance_rst : s.advance.rst = s.rst := rfl
@[simp] theorem State.advance_resets : s.advance.resets = s.resets := rfl
@[simp] theorem State.advance_fbGen : s.advance.fbGen = s.fbGen := rfl

/-! `State.writeFb` -/

@[simp] theorem State.writeFb_cfg (bytes : List Byte) : (s.writeFb bytes).cfg = s.cfg := rfl
@[simp] theorem State.writeFb_phase (bytes : List Byte) : (s.writeFb bytes).phase = s.phase := rfl
@[simp] theorem State.writeFb_len (bytes : List Byte) : (s.writeFb bytes).len = s.len := rfl
@[simp] theorem State.writeFb_idx (bytes : List Byte) : (s.writeFb bytes).idx = s.idx := rfl
@[simp] theorem State.writeFb_bitcnt (bytes : List Byte) : (s.writeFb bytes).bitcnt = s.bitcnt := rfl
@[simp] theorem State.writeFb_shreg (bytes : List Byte) : (s.writeFb bytes).shreg = s.shreg := rfl
@[simp] theorem State.writeFb_ieSaved (bytes : List Byte) : (s.writeFb bytes).ieSaved = s.ieSaved := rfl
@[simp] theorem State.writeFb_pin (bytes : List Byte) : (s.writeFb bytes).pin = s.pin := rfl
@[simp] theorem State.writeFb_ie (bytes : List Byte) : (s.writeFb bytes).ie = s.ie := rfl
@[simp] theorem State.writeFb_oe (bytes : List Byte) : (s.writeFb bytes).oe = s.oe := rfl
@[simp] theorem State.writeFb_fb (bytes : List Byte) : (s.writeFb bytes).fb = Memory.ofBytes (fbSize s.cfg) bytes := rfl
@[simp] theorem State.writeFb_trace (bytes : List Byte) : (s.writeFb bytes).trace = s.trace := rfl
@[simp] theorem State.writeFb_oeTrace (bytes : List Byte) : (s.writeFb bytes).oeTrace = s.oeTrace := rfl
@[simp] theorem State.writeFb_now (bytes : List Byte) : (s.writeFb bytes).now = s.now := rfl
@[simp] theorem State.writeFb_line (bytes : List Byte) : (s.writeFb bytes).line = s.line := rfl
@[simp] theorem State.writeFb_host (bytes : List Byte) : (s.writeFb bytes).host = s.host := rfl
@[simp] theorem State.writeFb_preemptor (bytes : List Byte) : (s.writeFb bytes).preemptor = s.preemptor := rfl
@[simp] theorem State.writeFb_rst (bytes : List Byte) : (s.writeFb bytes).rst = s.rst := rfl
@[simp] theorem State.writeFb_resets (bytes : List Byte) : (s.writeFb bytes).resets = s.resets := rfl
@[simp] theorem State.writeFb_fbGen (bytes : List Byte) : (s.writeFb bytes).fbGen = s.fbGen + 1 := rfl

/-! `State.writeByte` -/

@[simp] theorem State.writeByte_cfg (i : Nat) (b : Byte) : (s.writeByte i b).cfg = s.cfg := rfl
@[simp] theorem State.writeByte_phase (i : Nat) (b : Byte) : (s.writeByte i b).phase = s.phase := rfl
@[simp] theorem State.writeByte_len (i : Nat) (b : Byte) : (s.writeByte i b).len = s.len := rfl
@[simp] theorem State.writeByte_idx (i : Nat) (b : Byte) : (s.writeByte i b).idx = s.idx := rfl
@[simp] theorem State.writeByte_bitcnt (i : Nat) (b : Byte) : (s.writeByte i b).bitcnt = s.bitcnt := rfl
@[simp] theorem State.writeByte_shreg (i : Nat) (b : Byte) : (s.writeByte i b).shreg = s.shreg := rfl
@[simp] theorem State.writeByte_ieSaved (i : Nat) (b : Byte) : (s.writeByte i b).ieSaved = s.ieSaved := rfl
@[simp] theorem State.writeByte_pin (i : Nat) (b : Byte) : (s.writeByte i b).pin = s.pin := rfl
@[simp] theorem State.writeByte_ie (i : Nat) (b : Byte) : (s.writeByte i b).ie = s.ie := rfl
@[simp] theorem State.writeByte_oe (i : Nat) (b : Byte) : (s.writeByte i b).oe = s.oe := rfl
@[simp] theorem State.writeByte_fb (i : Nat) (b : Byte) :
    (s.writeByte i b).fb = if i < fbSize s.cfg then Memory.write s.fb i b else s.fb := rfl
@[simp] theorem State.writeByte_trace (i : Nat) (b : Byte) : (s.writeByte i b).trace = s.trace := rfl
@[simp] theorem State.writeByte_oeTrace (i : Nat) (b : Byte) : (s.writeByte i b).oeTrace = s.oeTrace := rfl
@[simp] theorem State.writeByte_now (i : Nat) (b : Byte) : (s.writeByte i b).now = s.now := rfl
@[simp] theorem State.writeByte_line (i : Nat) (b : Byte) : (s.writeByte i b).line = s.line := rfl
@[simp] theorem State.writeByte_host (i : Nat) (b : Byte) : (s.writeByte i b).host = s.host := rfl
@[simp] theorem State.writeByte_preemptor (i : Nat) (b : Byte) : (s.writeByte i b).preemptor = s.preemptor := rfl
@[simp] theorem State.writeByte_rst (i : Nat) (b : Byte) : (s.writeByte i b).rst = s.rst := rfl
@[simp] theorem State.writeByte_resets (i : Nat) (b : Byte) : (s.writeByte i b).resets = s.resets := rfl
@[simp] theorem State.writeByte_fbGen (i : Nat) (b : Byte) : (s.writeByte i b).fbGen = s.fbGen := rfl

/-! `State.writeOe` -/

@[simp] theorem State.writeOe_cfg (v : Bool) : (s.writeOe v).cfg = s.cfg := rfl
@[simp] theorem State.writeOe_phase (v : Bool) : (s.writeOe v).phase = s.phase := rfl
@[simp] theorem State.writeOe_len (v : Bool) : (s.writeOe v).len = s.len := rfl
@[simp] theorem State.writeOe_idx (v : Bool) : (s.writeOe v).idx = s.idx := rfl
@[simp] theorem State.writeOe_bitcnt (v : Bool) : (s.writeOe v).bitcnt = s.bitcnt := rfl
@[simp] theorem State.writeOe_shreg (v : Bool) : (s.writeOe v).shreg = s.shreg := rfl
@[simp] theorem State.writeOe_ieSaved (v : Bool) : (s.writeOe v).ieSaved = s.ieSaved := rfl
@[simp] theorem State.writeOe_pin (v : Bool) : (s.writeOe v).pin = s.pin := rfl
@[simp] theorem State.writeOe_ie (v : Bool) : (s.writeOe v).ie = s.ie := rfl
@[simp] theorem State.writeOe_oe (v : Bool) : (s.writeOe v).oe = v := rfl
@[simp] theorem State.writeOe_fb (v : Bool) : (s.writeOe v).fb = s.fb := rfl
@[simp] theorem State.writeOe_trace (v : Bool) : (s.writeOe v).trace = s.trace := rfl
@[simp] theorem State.writeOe_oeTrace (v : Bool) : (s.writeOe v).oeTrace = s.oeTrace := rfl
@[simp] theorem State.writeOe_now (v : Bool) : (s.writeOe v).now = s.now := rfl
@[simp] theorem State.writeOe_line (v : Bool) : (s.writeOe v).line = s.line.afterOe v := rfl
@[simp] theorem State.writeOe_host (v : Bool) : (s.writeOe v).host = s.host := rfl
@[simp] theorem State.writeOe_preemptor (v : Bool) : (s.writeOe v).preemptor = s.preemptor := rfl
@[simp] theorem State.writeOe_rst (v : Bool) : (s.writeOe v).rst = s.rst := rfl
@[simp] theorem State.writeOe_resets (v : Bool) : (s.writeOe v).resets = s.resets := rfl
@[simp] theorem State.writeOe_fbGen (v : Bool) : (s.writeOe v).fbGen = s.fbGen := rfl

/-! `State.writeIe` -/

@[simp] theorem State.writeIe_cfg (v : Bool) : (s.writeIe v).cfg = s.cfg := rfl
@[simp] theorem State.writeIe_phase (v : Bool) : (s.writeIe v).phase = s.phase := rfl
@[simp] theorem State.writeIe_len (v : Bool) : (s.writeIe v).len = s.len := rfl
@[simp] theorem State.writeIe_idx (v : Bool) : (s.writeIe v).idx = s.idx := rfl
@[simp] theorem State.writeIe_bitcnt (v : Bool) : (s.writeIe v).bitcnt = s.bitcnt := rfl
@[simp] theorem State.writeIe_shreg (v : Bool) : (s.writeIe v).shreg = s.shreg := rfl
@[simp] theorem State.writeIe_ieSaved (v : Bool) : (s.writeIe v).ieSaved = s.ieSaved := rfl
@[simp] theorem State.writeIe_pin (v : Bool) : (s.writeIe v).pin = s.pin := rfl
@[simp] theorem State.writeIe_ie (v : Bool) : (s.writeIe v).ie = v := rfl
@[simp] theorem State.writeIe_oe (v : Bool) : (s.writeIe v).oe = s.oe := rfl
@[simp] theorem State.writeIe_fb (v : Bool) : (s.writeIe v).fb = s.fb := rfl
@[simp] theorem State.writeIe_trace (v : Bool) : (s.writeIe v).trace = s.trace := rfl
@[simp] theorem State.writeIe_oeTrace (v : Bool) : (s.writeIe v).oeTrace = s.oeTrace := rfl
@[simp] theorem State.writeIe_now (v : Bool) : (s.writeIe v).now = s.now := rfl
@[simp] theorem State.writeIe_line (v : Bool) : (s.writeIe v).line = s.line := rfl
@[simp] theorem State.writeIe_host (v : Bool) : (s.writeIe v).host = s.host := rfl
@[simp] theorem State.writeIe_preemptor (v : Bool) : (s.writeIe v).preemptor = s.preemptor := rfl
@[simp] theorem State.writeIe_rst (v : Bool) : (s.writeIe v).rst = s.rst := rfl
@[simp] theorem State.writeIe_resets (v : Bool) : (s.writeIe v).resets = s.resets := rfl
@[simp] theorem State.writeIe_fbGen (v : Bool) : (s.writeIe v).fbGen = s.fbGen := rfl

/-! `State.setHost` -/

@[simp] theorem State.setHost_cfg (h : List HostStep) : (s.setHost h).cfg = s.cfg := rfl
@[simp] theorem State.setHost_phase (h : List HostStep) : (s.setHost h).phase = s.phase := rfl
@[simp] theorem State.setHost_len (h : List HostStep) : (s.setHost h).len = s.len := rfl
@[simp] theorem State.setHost_idx (h : List HostStep) : (s.setHost h).idx = s.idx := rfl
@[simp] theorem State.setHost_bitcnt (h : List HostStep) : (s.setHost h).bitcnt = s.bitcnt := rfl
@[simp] theorem State.setHost_shreg (h : List HostStep) : (s.setHost h).shreg = s.shreg := rfl
@[simp] theorem State.setHost_ieSaved (h : List HostStep) : (s.setHost h).ieSaved = s.ieSaved := rfl
@[simp] theorem State.setHost_pin (h : List HostStep) : (s.setHost h).pin = s.pin := rfl
@[simp] theorem State.setHost_ie (h : List HostStep) : (s.setHost h).ie = s.ie := rfl
@[simp] theorem State.setHost_oe (h : List HostStep) : (s.setHost h).oe = s.oe := rfl
@[simp] theorem State.setHost_fb (h : List HostStep) : (s.setHost h).fb = s.fb := rfl
@[simp] theorem State.setHost_trace (h : List HostStep) : (s.setHost h).trace = s.trace := rfl
@[simp] theorem State.setHost_oeTrace (h : List HostStep) : (s.setHost h).oeTrace = s.oeTrace := rfl
@[simp] theorem State.setHost_now (h : List HostStep) : (s.setHost h).now = s.now := rfl
@[simp] theorem State.setHost_line (h : List HostStep) : (s.setHost h).line = s.line := rfl
@[simp] theorem State.setHost_host (h : List HostStep) : (s.setHost h).host = h := rfl
@[simp] theorem State.setHost_preemptor (h : List HostStep) : (s.setHost h).preemptor = s.preemptor := rfl
@[simp] theorem State.setHost_rst (h : List HostStep) : (s.setHost h).rst = s.rst := rfl
@[simp] theorem State.setHost_resets (h : List HostStep) : (s.setHost h).resets = s.resets := rfl
@[simp] theorem State.setHost_fbGen (h : List HostStep) : (s.setHost h).fbGen = s.fbGen := rfl

/-! `State.setPreemptor` -/

@[simp] theorem State.setPreemptor_cfg (p : List Interrupt) : (s.setPreemptor p).cfg = s.cfg := rfl
@[simp] theorem State.setPreemptor_phase (p : List Interrupt) : (s.setPreemptor p).phase = s.phase := rfl
@[simp] theorem State.setPreemptor_len (p : List Interrupt) : (s.setPreemptor p).len = s.len := rfl
@[simp] theorem State.setPreemptor_idx (p : List Interrupt) : (s.setPreemptor p).idx = s.idx := rfl
@[simp] theorem State.setPreemptor_bitcnt (p : List Interrupt) : (s.setPreemptor p).bitcnt = s.bitcnt := rfl
@[simp] theorem State.setPreemptor_shreg (p : List Interrupt) : (s.setPreemptor p).shreg = s.shreg := rfl
@[simp] theorem State.setPreemptor_ieSaved (p : List Interrupt) : (s.setPreemptor p).ieSaved = s.ieSaved := rfl
@[simp] theorem State.setPreemptor_pin (p : List Interrupt) : (s.setPreemptor p).pin = s.pin := rfl
@[simp] theorem State.setPreemptor_ie (p : List Interrupt) : (s.setPreemptor p).ie = s.ie := rfl
@[simp] theorem State.setPreemptor_oe (p : List Interrupt) : (s.setPreemptor p).oe = s.oe := rfl
@[simp] theorem State.setPreemptor_fb (p : List Interrupt) : (s.setPreemptor p).fb = s.fb := rfl
@[simp] theorem State.setPreemptor_trace (p : List Interrupt) : (s.setPreemptor p).trace = s.trace := rfl
@[simp] theorem State.setPreemptor_oeTrace (p : List Interrupt) : (s.setPreemptor p).oeTrace = s.oeTrace := rfl
@[simp] theorem State.setPreemptor_now (p : List Interrupt) : (s.setPreemptor p).now = s.now := rfl
@[simp] theorem State.setPreemptor_line (p : List Interrupt) : (s.setPreemptor p).line = s.line := rfl
@[simp] theorem State.setPreemptor_host (p : List Interrupt) : (s.setPreemptor p).host = s.host := rfl
@[simp] theorem State.setPreemptor_preemptor (p : List Interrupt) : (s.setPreemptor p).preemptor = p := rfl
@[simp] theorem State.setPreemptor_rst (p : List Interrupt) : (s.setPreemptor p).rst = s.rst := rfl
@[simp] theorem State.setPreemptor_resets (p : List Interrupt) : (s.setPreemptor p).resets = s.resets := rfl
@[simp] theorem State.setPreemptor_fbGen (p : List Interrupt) : (s.setPreemptor p).fbGen = s.fbGen := rfl

/-! `State.setRst` -/

@[simp] theorem State.setRst_cfg (r : List Bool) : (s.setRst r).cfg = s.cfg := rfl
@[simp] theorem State.setRst_phase (r : List Bool) : (s.setRst r).phase = s.phase := rfl
@[simp] theorem State.setRst_len (r : List Bool) : (s.setRst r).len = s.len := rfl
@[simp] theorem State.setRst_idx (r : List Bool) : (s.setRst r).idx = s.idx := rfl
@[simp] theorem State.setRst_bitcnt (r : List Bool) : (s.setRst r).bitcnt = s.bitcnt := rfl
@[simp] theorem State.setRst_shreg (r : List Bool) : (s.setRst r).shreg = s.shreg := rfl
@[simp] theorem State.setRst_ieSaved (r : List Bool) : (s.setRst r).ieSaved = s.ieSaved := rfl
@[simp] theorem State.setRst_pin (r : List Bool) : (s.setRst r).pin = s.pin := rfl
@[simp] theorem State.setRst_ie (r : List Bool) : (s.setRst r).ie = s.ie := rfl
@[simp] theorem State.setRst_oe (r : List Bool) : (s.setRst r).oe = s.oe := rfl
@[simp] theorem State.setRst_fb (r : List Bool) : (s.setRst r).fb = s.fb := rfl
@[simp] theorem State.setRst_trace (r : List Bool) : (s.setRst r).trace = s.trace := rfl
@[simp] theorem State.setRst_oeTrace (r : List Bool) : (s.setRst r).oeTrace = s.oeTrace := rfl
@[simp] theorem State.setRst_now (r : List Bool) : (s.setRst r).now = s.now := rfl
@[simp] theorem State.setRst_line (r : List Bool) : (s.setRst r).line = s.line := rfl
@[simp] theorem State.setRst_host (r : List Bool) : (s.setRst r).host = s.host := rfl
@[simp] theorem State.setRst_preemptor (r : List Bool) : (s.setRst r).preemptor = s.preemptor := rfl
@[simp] theorem State.setRst_rst (r : List Bool) : (s.setRst r).rst = r := rfl
@[simp] theorem State.setRst_resets (r : List Bool) : (s.setRst r).resets = s.resets := rfl
@[simp] theorem State.setRst_fbGen (r : List Bool) : (s.setRst r).fbGen = s.fbGen := rfl

/-! `State.systemReset` -/

@[simp] theorem State.systemReset_cfg : s.systemReset.cfg = s.cfg := rfl
@[simp] theorem State.systemReset_phase : s.systemReset.phase = Phase.idle := rfl
@[simp] theorem State.systemReset_len : s.systemReset.len = 0 := rfl
@[simp] theorem State.systemReset_idx : s.systemReset.idx = 0 := rfl
@[simp] theorem State.systemReset_bitcnt : s.systemReset.bitcnt = 0#4 := rfl
@[simp] theorem State.systemReset_shreg : s.systemReset.shreg = 0#8 := rfl
@[simp] theorem State.systemReset_ieSaved : s.systemReset.ieSaved = false := rfl
@[simp] theorem State.systemReset_pin : s.systemReset.pin = false := rfl
@[simp] theorem State.systemReset_ie : s.systemReset.ie = s.cfg.ieReset := rfl
@[simp] theorem State.systemReset_oe : s.systemReset.oe = Config.freeOe (s.resets + 1) := rfl
@[simp] theorem State.systemReset_fb : s.systemReset.fb = [] := rfl
@[simp] theorem State.systemReset_trace : s.systemReset.trace = [] := rfl
@[simp] theorem State.systemReset_oeTrace : s.systemReset.oeTrace = [] := rfl
@[simp] theorem State.systemReset_now : s.systemReset.now = 0 := rfl
@[simp] theorem State.systemReset_line : s.systemReset.line = .fresh := rfl
@[simp] theorem State.systemReset_host : s.systemReset.host = s.host := rfl
@[simp] theorem State.systemReset_preemptor : s.systemReset.preemptor = s.preemptor := rfl
@[simp] theorem State.systemReset_rst : s.systemReset.rst = s.rst := rfl
@[simp] theorem State.systemReset_resets : s.systemReset.resets = s.resets + 1 := rfl
@[simp] theorem State.systemReset_fbGen : s.systemReset.fbGen = s.fbGen + 1 := rfl

/-! Reads of FB depend on FB and its generation only. -/

theorem State.fbByte_congr {s t : State} (hfb : t.fb = s.fb) (hgen : t.fbGen = s.fbGen) (i : Nat) :
    t.fbByte i = s.fbByte i := by
  simp [State.fbByte, hfb, hgen]

end Sys2Proof.Machine
end

