-- ==== Sys2Proof/Laws/Line.lean ====
section
/-! SUPPORT. The laws of traces: emission, total, the normal form Runs. -/

namespace Sys2Proof.Machine

@[simp] theorem Trace.total_nil : Trace.total [] = 0 := rfl

@[simp] theorem Trace.total_cons (seg : Segment) (t : Trace) : Trace.total (seg :: t) = seg.2 + Trace.total t := by
  simp [Trace.total]

@[simp] theorem Trace.total_append (t u : Trace) : Trace.total (t ++ u) = t.total + Trace.total u := by
  simp [Trace.total]

@[simp] theorem Trace.push_zero (t : Trace) (l : Level) : t.push l 0 = t := rfl

/-- Emission of `k` cycles makes the trace `k` cycles longer. -/
@[simp] theorem Trace.total_push (t : Trace) (l : Level) (k : Nat) : (t.push l k).total = t.total + k := by
  unfold Trace.push
  split <;> simp_all

/-- Emission appends no empty segment. -/
theorem Trace.push_no_empty {t : Trace} (h : ∀ seg ∈ t, seg.2 ≠ 0) (l : Level) (k : Nat) :
    ∀ seg ∈ t.push l k, seg.2 ≠ 0 := by
  unfold Trace.push
  split
  · exact h
  · intro seg hseg
    rcases List.mem_append.mp hseg with h' | h'
    · exact h seg h'
    · simp_all

@[simp] theorem runs_nil : runs [] = [] := rfl

@[simp] theorem runs_cons (seg : Segment) (t : Trace) : runs (seg :: t) = consRun seg (runs t) := rfl

theorem runs_append (t u : Trace) : runs (t ++ u) = t.foldr consRun (runs u) := by
  simp [runs, List.foldr_append]

@[simp] theorem consRun_zero (l : Level) (r : Trace) : consRun (l, 0) r = r := by simp [consRun]

/-- Two segments of one level are one. -/
theorem consRun_merge (l : Level) (a b : Nat) (r : Trace) :
    consRun (l, a) (consRun (l, b) r) = consRun (l, a + b) r := by
  by_cases ha : a = 0
  · subst ha; simp
  by_cases hb : b = 0
  · subst hb; simp
  have hab : a + b ≠ 0 := by omega
  rcases r with _ | ⟨⟨m, c⟩, r⟩
  · simp [consRun, ha, hb]
  · by_cases hm : l = m
    · subst hm
      simp [consRun, ha, hb, Nat.add_assoc]
    · simp [consRun, ha, hb, hm]

/-- Emission is the append of one segment, as far as Runs can tell. -/
theorem runs_push (t : Trace) (l : Level) (k : Nat) : runs (t.push l k) = runs (t ++ [(l, k)]) := by
  unfold Trace.push
  split
  · rename_i hk
    subst hk
    simp [runs]
  · rfl

/-- Runs of equal tails are equal under a common head. -/
theorem runs_append_congr {u v : Trace} (h : runs u = runs v) (t : Trace) : runs (t ++ u) = runs (t ++ v) := by
  rw [runs_append, runs_append, h]

@[simp] theorem total_consRun (seg : Segment) (r : Trace) : (consRun seg r).total = seg.2 + r.total := by
  unfold consRun
  split
  · simp_all
  · split
    · simp
    · split <;> simp [Nat.add_assoc]

/-- Runs keeps the cycles. -/
@[simp] theorem total_runs (t : Trace) : (runs t).total = t.total := by
  induction t with
  | nil => rfl
  | cons seg t ih => simp [ih]

@[simp] theorem State.emit_total (s : State) (k : Nat) : (s.emit k).trace.total = s.trace.total + k := by simp

@[simp] theorem State.spend_total (s : State) (k : Nat) : (s.spend k).trace.total = s.trace.total + k := by simp

/-- The level in a cycle of two traces in a row. -/
theorem Trace.levelAt_append (t u : Trace) (c : Nat) :
    Trace.levelAt (t ++ u) c = if c < t.total then Trace.levelAt t c else Trace.levelAt u (c - t.total) := by
  induction t generalizing c with
  | nil => simp
  | cons seg t ih =>
    obtain ⟨l, k⟩ := seg
    simp only [List.cons_append, Trace.levelAt, ih, Trace.total_cons]
    by_cases h : c < k
    · simp [h, Nat.lt_add_right]
    · have h1 : (c - k < Trace.total t) ↔ (c < k + Trace.total t) := by omega
      simp [h, h1, Nat.sub_sub]

/-- There is no cycle after the last. -/
theorem Trace.levelAt_none {t : Trace} {c : Nat} (h : t.total ≤ c) : t.levelAt c = none := by
  induction t generalizing c with
  | nil => rfl
  | cons seg t ih =>
    obtain ⟨l, k⟩ := seg
    simp only [Trace.total_cons] at h
    have h1 : ¬ c < k := by omega
    simp only [Trace.levelAt, h1, if_false]
    exact ih (by omega)

/-- Emission of `k` cycles: the cycles before keep their level, the `k` new ones have the level emitted. -/
theorem Trace.levelAt_push (t : Trace) (l : Level) (k c : Nat) :
    (t.push l k).levelAt c =
      if c < t.total then t.levelAt c else if c < t.total + k then some l else none := by
  unfold Trace.push
  split
  · rename_i hk
    subst hk
    by_cases h : c < t.total
    · simp [h]
    · simp [h, Trace.levelAt_none (Nat.not_lt.mp h)]
  · rw [Trace.levelAt_append]
    by_cases h : c < t.total
    · simp [h]
    · have h1 : (c - t.total < k) ↔ (c < t.total + k) := by omega
      simp [h, Trace.levelAt, h1]

/-- The line depends on TRACE and on the record of OE only. -/
theorem State.lineLevel_congr {s t : State} (h : t.trace = s.trace) (ho : t.oeTrace = s.oeTrace) (c : Nat) :
    t.lineLevel c = s.lineLevel c := by
  simp [State.lineLevel, h, ho]

end Sys2Proof.Machine
end

