-- ==== Sys2Proof/Laws/Memory.lean ====
section
/-! SUPPORT. The laws of the frame buffer: read after write, and that every operation keeps the canonical form. -/

namespace Sys2Proof.Machine

theorem Memory.read_write_same (m : Memory) (a : Nat) (v : Byte) : (Memory.write m a v).read a = some v := by
  induction m with
  | nil => simp [Memory.write, Memory.read]
  | cons c m ih =>
    obtain ⟨i, b⟩ := c
    simp only [Memory.write]
    split
    · simp [Memory.read]
    · split
      · simp [Memory.read]
      · simp [Memory.read, *]

theorem Memory.read_write_other (m : Memory) {a a' : Nat} (v : Byte) (h : a' ≠ a) :
    (Memory.write m a v).read a' = m.read a' := by
  induction m with
  | nil => simp [Memory.write, Memory.read, h]
  | cons c m ih =>
    obtain ⟨i, b⟩ := c
    simp only [Memory.write]
    split
    · simp [Memory.read, h]
    · split
      · rename_i heq
        subst heq
        simp [Memory.read, h]
      · simp [Memory.read, ih]

theorem Memory.wfFrom_write (m : Memory) {size lo a : Nat} (v : Byte) (hlo : lo ≤ a) (ha : a < size)
    (h : m.wfFrom size lo = true) : (Memory.write m a v).wfFrom size lo = true := by
  induction m generalizing lo with
  | nil => simp [Memory.write, Memory.wfFrom, hlo, ha]
  | cons c m ih =>
    obtain ⟨i, b⟩ := c
    simp only [Memory.wfFrom, Bool.and_eq_true, decide_eq_true_eq] at h
    obtain ⟨⟨h1, h2⟩, h3⟩ := h
    simp only [Memory.write]
    split
    · rename_i hlt
      simp [Memory.wfFrom, hlo, ha, h2, h3, Nat.succ_le_of_lt hlt]
    · split
      · rename_i heq
        subst heq
        simp [Memory.wfFrom, hlo, ha, h3]
      · rename_i hge hne
        simp only [Memory.wfFrom, Bool.and_eq_true, decide_eq_true_eq]
        exact ⟨⟨h1, h2⟩, ih (by omega) h3⟩

/-- A write of one byte keeps the canonical form. -/
theorem Memory.wf_write {m : Memory} {size a : Nat} (v : Byte) (ha : a < size) (h : m.wf size = true) :
    (Memory.write m a v).wf size = true :=
  Memory.wfFrom_write m v (Nat.zero_le a) ha h

theorem Memory.wfFrom_ofBytesFrom (bytes : List Byte) {size : Nat} (i : Nat) (h : i + bytes.length ≤ size) :
    (Memory.ofBytesFrom i bytes).wfFrom size i = true := by
  induction bytes generalizing i with
  | nil => rfl
  | cons b bytes ih =>
    simp only [List.length_cons] at h
    simp only [Memory.ofBytesFrom, Memory.wfFrom, Bool.and_eq_true, decide_eq_true_eq]
    exact ⟨⟨le_refl i, by omega⟩, ih (i + 1) (by omega)⟩

/-- A whole buffer is in the canonical form. -/
theorem Memory.wf_ofBytes (size : Nat) (bytes : List Byte) : (Memory.ofBytes size bytes).wf size = true :=
  Memory.wfFrom_ofBytesFrom _ 0 (by simp [List.length_take])

theorem Memory.read_ofBytesFrom (bytes : List Byte) (i a : Nat) :
    (Memory.ofBytesFrom i bytes).read a = if i ≤ a then bytes[a - i]? else none := by
  induction bytes generalizing i with
  | nil => simp [Memory.ofBytesFrom, Memory.read]
  | cons b bytes ih =>
    simp only [Memory.ofBytesFrom, Memory.read, ih]
    by_cases h : a = i
    · simp [h]
    · by_cases hle : i ≤ a
      · have h1 : i + 1 ≤ a := by omega
        have h2 : a - i = (a - (i + 1)) + 1 := by omega
        simp [h, hle, h1, h2]
      · have h1 : ¬ (i + 1 ≤ a) := by omega
        simp [h, hle, h1]

/-- What a whole buffer reads as: its bytes in index order. -/
theorem Memory.read_ofBytes (bytes : List Byte) {size a : Nat} (ha : a < size) :
    (Memory.ofBytes size bytes).read a = bytes[a]? := by
  simp [Memory.ofBytes, Memory.read_ofBytesFrom, ha]

/-- The bytes a Host write leaves are the bytes it wrote. -/
theorem State.fbBytes_writeFb (s : State) (bytes : List Byte) (h : bytes.length ≤ fbSize s.cfg) :
    (s.writeFb bytes).fbBytes bytes.length = bytes := by
  apply List.ext_getElem
  · simp [State.fbBytes]
  · intro i h1 h2
    have hi : i < fbSize s.cfg := by omega
    simp [State.fbBytes, State.fbByte, Memory.read_ofBytes bytes hi, List.getElem?_eq_getElem h2]

/-- A Host write of one byte keeps the canonical form. -/
theorem State.wf_writeByte {s : State} (i : Nat) (b : Byte) (h : s.fb.wf (fbSize s.cfg) = true) :
    (s.writeByte i b).fb.wf (fbSize s.cfg) = true := by
  rw [State.writeByte_fb]
  split
  · exact Memory.wf_write b ‹_› h
  · exact h

end Sys2Proof.Machine
end

