-- ==== Sys2Proof/Laws/PerInstr.lean ====
section
/-! SUPPORT. The family RowMatch: every instruction's word matches its row of spec/opcode_table.json, by the row's mask
and match, and fits its format. -/

namespace Sys2Proof.Laws

/-- The mask of the row of an instruction (30_encoding.md R82, R85). -/
def rowMask : Instr → Nat
  | .transmit _ | .latch => 0x30000
  | .enter | .loadb | .rise | .holdb | .cond | .holdd | .fall | .holdf | .next | .exit | .holdr => 0xF

/-- The match of the row of an instruction (30_encoding.md R82, R85). -/
def rowMatch : Instr → Nat
  | .transmit _ => 0x10000
  | .latch => 0x20000
  | .enter => 0x1
  | .loadb => 0x2
  | .rise => 0x3
  | .holdb => 0x4
  | .cond => 0x5
  | .holdd => 0x6
  | .fall => 0x7
  | .holdf => 0x8
  | .next => 0x9
  | .exit => 0xA
  | .holdr => 0xB

/-- The word of a well-formed instruction, with the table's LEN_BITS, masked, is the match of its row, and it fits the
format. -/
def RowMatch.Statement (i : Instr) : Prop :=
  i.wf tableLenBits = true →
    encode tableLenBits i &&& rowMask i = rowMatch i ∧ encode tableLenBits i < 2 ^ i.format.bits tableLenBits

theorem RowMatch.transmit (n : Nat) : RowMatch.Statement (.transmit n) := by
  intro hwf
  have hn : n < 2 ^ 16 := of_decide_eq_true hwf
  refine ⟨?_, by simp only [encode, Instr.format, Format.bits, tableLenBits]; omega⟩
  have hsum : (2 ^ 16 + n) = 2 ^ 16 * 1 ||| n := by
    rw [← Nat.two_pow_add_eq_or_of_lt hn, Nat.mul_one]
  show (2 ^ 16 + n) &&& 0x30000 = 0x10000
  rw [hsum]
  have hlow : n &&& 0x30000 = 0 := by
    apply Nat.eq_of_testBit_eq
    intro i
    rw [Nat.testBit_and, Nat.zero_testBit]
    by_cases hi : i < 16
    · have : (0x30000 : Nat).testBit i = false := by interval_cases i <;> decide
      simp [this]
    · have hlt : n < 2 ^ i := lt_of_lt_of_le hn (Nat.pow_le_pow_right (by decide) (by omega))
      simp [Nat.testBit_lt_two_pow hlt]
  rw [Nat.and_comm, Nat.and_or_distrib_left, Nat.and_comm 0x30000 n, hlow]
  decide

theorem RowMatch.latch : RowMatch.Statement .latch := fun _ => ⟨by decide, by decide⟩

theorem RowMatch.enter : RowMatch.Statement .enter := fun _ => ⟨by decide, by decide⟩

theorem RowMatch.loadb : RowMatch.Statement .loadb := fun _ => ⟨by decide, by decide⟩

theorem RowMatch.rise : RowMatch.Statement .rise := fun _ => ⟨by decide, by decide⟩

theorem RowMatch.holdb : RowMatch.Statement .holdb := fun _ => ⟨by decide, by decide⟩

theorem RowMatch.cond : RowMatch.Statement .cond := fun _ => ⟨by decide, by decide⟩

theorem RowMatch.holdd : RowMatch.Statement .holdd := fun _ => ⟨by decide, by decide⟩

theorem RowMatch.fall : RowMatch.Statement .fall := fun _ => ⟨by decide, by decide⟩

theorem RowMatch.holdf : RowMatch.Statement .holdf := fun _ => ⟨by decide, by decide⟩

theorem RowMatch.next : RowMatch.Statement .next := fun _ => ⟨by decide, by decide⟩

theorem RowMatch.exit : RowMatch.Statement .exit := fun _ => ⟨by decide, by decide⟩

theorem RowMatch.holdr : RowMatch.Statement .holdr := fun _ => ⟨by decide, by decide⟩

end Sys2Proof.Laws
end

