-- ==== Sys2Proof/Laws/Step.lean ====
section
/-! SUPPORT. What one step can do, once for every step function: the inversion lemmas that later proofs cite instead of
unfolding, and one equation for each meaning. -/

namespace Sys2Proof.Machine

@[simp] theorem State.busy_eq_true (s : State) : s.busy = true ↔ s.phase ≠ Phase.idle := by simp [State.busy]

@[simp] theorem State.busy_eq_false (s : State) : s.busy = false ↔ s.phase = Phase.idle := by simp [State.busy]

@[simp] theorem runSteps_zero (s : State) : runSteps 0 s = .next s := rfl

/-- A run is its first step and the rest. -/
theorem runSteps_succ {k : Nat} {s t : State} (h : step s = .next t) : runSteps (k + 1) s = runSteps k t := by
  have h' : Sys2Proof.core.step s = .next t := h
  simp only [runSteps, Host.Core.run]
  rw [h']

/-- Runs compose. -/
theorem runSteps_add {a b : Nat} {s t : State} (h : runSteps a s = .next t) :
    runSteps (a + b) s = runSteps b t := by
  induction a generalizing s with
  | zero => simp at h; simp [h]
  | succ a ih =>
    cases hs : step s with
    | next u =>
      rw [runSteps_succ hs] at h
      rw [Nat.succ_add_eq_add_succ, Nat.add_succ, runSteps_succ hs]
      exact ih h
    | fault r =>
      have h' : Sys2Proof.core.step s = .fault r := hs
      simp only [runSteps, Host.Core.run] at h
      rw [h'] at h
      cases h
    | refused r =>
      have h' : Sys2Proof.core.step s = .refused r := hs
      simp only [runSteps, Host.Core.run] at h
      rw [h'] at h
      cases h

/-- The first state with a property is one state after one number of steps. -/
theorem State.firstIn_unique {s t t' : State} {k k' : Nat} {P : State → Prop} (h : s.firstIn k P t)
    (h' : s.firstIn k' P t') : k = k' ∧ t = t' := by
  obtain ⟨hr, hp, hf⟩ := h
  obtain ⟨hr', hp', hf'⟩ := h'
  rcases Nat.lt_trichotomy k k' with hlt | rfl | hlt
  · exact (hf' k t hlt hr hp).elim
  · exact ⟨rfl, by rw [hr] at hr'; cases hr'; rfl⟩
  · exact (hf k' t' hlt hr' hp').elim

/-- A state that has the property is the first one itself. -/
theorem State.firstIn_zero {s : State} {P : State → Prop} (h : P s) : s.firstIn 0 P s := ⟨rfl, h, by simp⟩

/-- The first state with a property, one step earlier. -/
theorem State.firstIn_succ {s u t : State} {k : Nat} {P : State → Prop} (hs : step s = .next u) (hn : ¬ P s)
    (h : u.firstIn k P t) : s.firstIn (k + 1) P t := by
  refine ⟨(runSteps_succ hs).trans h.1, h.2.1, fun m v hm hv => ?_⟩
  cases m with
  | zero => cases hv; exact hn
  | succ m => exact h.2.2 m v (by omega) ((runSteps_succ hs).symm.trans hv)

/-- A run that reaches the property within `k` steps has a first state with it. -/
theorem State.firstIn_of_run {s t : State} {k : Nat} {P : State → Prop} (hr : runSteps k s = .next t) (h : P t) :
    ∃ k' t', k' ≤ k ∧ s.firstIn k' P t' := by
  induction k using Nat.strongRecOn generalizing t with
  | ind k ih =>
    by_cases hex : ∃ m u, m < k ∧ runSteps m s = .next u ∧ P u
    · obtain ⟨m, u, hm, hu, hP⟩ := hex
      obtain ⟨k', t', hk, hf⟩ := ih m hm hu hP
      exact ⟨k', t', by omega, hf⟩
    · exact ⟨k, t, Nat.le_refl k, hr, h, fun m u hm hu hP => hex ⟨m, u, hm, hu, hP⟩⟩

/-- The Host's list is its part up to the last command and then directives only. -/
theorem commandPart_append (host : List HostStep) : ∃ tail, host = commandPart host ++ tail ∧ commandWords tail = [] := by
  induction host with
  | nil => exact ⟨[], rfl, rfl⟩
  | cons h rest ih =>
    by_cases hw : commandWords (h :: rest) = []
    · exact ⟨h :: rest, by simp [commandPart, hw], hw⟩
    · obtain ⟨tail, hr, ht⟩ := ih
      refine ⟨tail, ?_, ht⟩
      rw [commandPart, if_neg hw, List.cons_append, ← hr]

/-- No command to come, nothing before the end of the run. -/
theorem commandPart_eq_nil {host : List HostStep} : commandPart host = [] ↔ commandWords host = [] := by
  cases host with
  | nil => simp [commandPart, commandWords]
  | cons h rest => by_cases hw : commandWords (h :: rest) = [] <;> simp [commandPart, hw]

/-- A preemption and idle time are emissions. -/
theorem State.steal_eq (s : State) (k : Nat) : s.steal k = s.emit k := rfl

theorem State.idleFor_eq (s : State) (k : Nat) : s.idleFor k = s.emit k := rfl

/-! The meanings, one equation each. -/

theorem exec_enter (s : State) :
    exec .enter s = .next ((s.spend s.cfg.cEnter).acquire.goto s.afterEnter) := rfl

theorem exec_exit (s : State) : exec .exit s = .next ((s.spend s.cfg.cExit).release.goto Phase.idle) := rfl

theorem exec_loadb (s : State) :
    exec .loadb s = .next (((s.spend 0).loadShift s.indexedByte).goto Phase.rise) := rfl

theorem exec_rise (s : State) :
    exec .rise s = .next (((s.spend s.cfg.cRise).drive true).goto Phase.holdb) := rfl

theorem exec_holdb (s : State) : exec .holdb s = .next ((s.spend s.cfg.base).goto Phase.cond) := rfl

theorem exec_cond (s : State) :
    exec .cond s = .next (((s.spend s.cfg.cCond).drive s.condPin).goto Phase.holdd) := rfl

theorem exec_holdd (s : State) : exec .holdd s = .next ((s.spend s.cfg.delta).goto Phase.fall) := rfl

theorem exec_fall (s : State) :
    exec .fall s = .next (((s.spend s.cfg.cFall).drive false).goto Phase.holdf) := rfl

theorem exec_holdf (s : State) : exec .holdf s = .next ((s.spend s.cfg.final).goto Phase.next) := rfl

theorem exec_next (s : State) :
    exec .next s =
      if s.bitsRemain then .next ((s.spend s.cfg.cLoop).shiftOut.goto Phase.rise)
      else .next ((s.spend s.cfg.cLoop).shiftOut.advance.goto s.afterByte) := rfl

theorem exec_holdr (s : State) : exec .holdr s = .next ((s.spend s.cfg.tLatch).goto Phase.idle) := rfl

/-- No instruction stops: every meaning answers a next state (60_exceptions.md R190). -/
theorem exec_answers (i : Instr) (s : State) : ∃ t, exec i s = .next t := by
  cases i with
  | transmit n => simp only [exec, execTransmit]; split <;> exact ⟨_, rfl⟩
  | latch => simp only [exec, execLatch]; split <;> exact ⟨_, rfl⟩
  | next => rw [exec_next]; split <;> exact ⟨_, rfl⟩
  | _ => exact ⟨_, rfl⟩

/-! The decoder of PHASE. -/

/-- The codes of PHASE that are operations, and the operation of each (10_state.md R22). -/
theorem decodePhase_cases {p : PhaseCode} {i : Instr} (h : decodePhase p = .instr i) :
    (p = Phase.enter ∧ i = .enter) ∨ (p = Phase.loadb ∧ i = .loadb) ∨ (p = Phase.rise ∧ i = .rise) ∨
    (p = Phase.holdb ∧ i = .holdb) ∨ (p = Phase.cond ∧ i = .cond) ∨ (p = Phase.holdd ∧ i = .holdd) ∨
    (p = Phase.fall ∧ i = .fall) ∨ (p = Phase.holdf ∧ i = .holdf) ∨ (p = Phase.next ∧ i = .next) ∨
    (p = Phase.exit ∧ i = .exit) ∨ (p = Phase.holdr ∧ i = .holdr) := by
  unfold decodePhase at h
  split at h <;> cases h <;> simp_all [← BitVec.toNat_inj]

/-! The agents. -/

/-- The Encoder's step, by the code of PHASE. -/
theorem encoderStep_cases {s t : State} (h : encoderStep s = .next t) :
    ∃ i, decodePhase s.phase = .instr i ∧ exec i s = .next t := by
  unfold encoderStep at h
  split at h
  · exact ⟨_, ‹_›, h⟩
  · cases h

/-- The Host's step: idle time, the acceptance of a command, idle time it asked for, or a Host write. -/
theorem hostStep_cases {s t : State} (h : hostStep s = .next t) :
    (s.host = [] ∧ t = s.emit 1) ∨
    (∃ w rest i, s.host = .command w :: rest ∧ decodeCommand s.cfg.lenBits w = .instr i ∧ exec i (s.setHost rest) = .next t) ∨
    (∃ k rest, s.host = .idle k :: rest ∧ t = (s.setHost rest).emit k) ∨
    (∃ bytes rest, s.host = .writeFb bytes :: rest ∧ t = (s.setHost rest).writeFb bytes) ∨
    (∃ i b rest, s.host = .writeByte i b :: rest ∧ t = (s.setHost rest).writeByte i b) ∨
    (∃ v rest, s.host = .writeOe v :: rest ∧ t = (s.setHost rest).writeOe v) ∨
    (∃ v rest, s.host = .writeIe v :: rest ∧ t = (s.setHost rest).writeIe v) := by
  unfold hostStep at h
  split at h
  · rename_i hh
    cases h
    exact .inl ⟨hh, rfl⟩
  · rename_i w rest hh
    split at h
    · rename_i i hd
      exact .inr (.inl ⟨w, rest, i, hh, hd, h⟩)
    · cases h
  · rename_i k rest hh
    cases h
    exact .inr (.inr (.inl ⟨k, rest, hh, rfl⟩))
  · rename_i bytes rest hh
    cases h
    exact .inr (.inr (.inr (.inl ⟨bytes, rest, hh, rfl⟩)))
  · rename_i i b rest hh
    cases h
    exact .inr (.inr (.inr (.inr (.inl ⟨i, b, rest, hh, rfl⟩))))
  · rename_i v rest hh
    cases h
    exact .inr (.inr (.inr (.inr (.inr (.inl ⟨v, rest, hh, rfl⟩)))))
  · rename_i v rest hh
    cases h
    exact .inr (.inr (.inr (.inr (.inr (.inr ⟨v, rest, hh, rfl⟩)))))

/-- Host or Encoder, by PHASE. -/
theorem runStep_cases {s t : State} (h : runStep s = .next t) :
    (s.phase = Phase.idle ∧ hostStep s = .next t) ∨ (s.phase ≠ Phase.idle ∧ encoderStep s = .next t) := by
  unfold runStep at h
  split at h
  · exact .inr ⟨by simp_all, h⟩
  · exact .inl ⟨by simp_all, h⟩

/-! The inputs of one point. -/

@[simp] theorem State.inputsUsed_phase (s : State) : s.inputsUsed.phase = s.phase := rfl

/-- What runs after the inputs of a point are used up differs in the inputs only. -/
theorem State.inputsUsed_eq (s : State) : ∃ p, s.inputsUsed = (s.setRst s.rst.tail).setPreemptor p := ⟨_, rfl⟩

/-- With no request served at this point the step is the Host's or the Encoder's. -/
theorem preemptorStep_undisturbed {s : State} (r : List Bool) (h : s.undisturbedNow) :
    preemptorStep (s.setRst r) = runStep { s.inputsUsed with rst := r } := by
  have h2 := h.2
  rcases hp : s.preemptor with _ | ⟨x, rest⟩
  · simp [preemptorStep, hp, State.inputsUsed, State.setRst]
  · cases x with
    | quiet => simp [preemptorStep, hp, State.inputsUsed, State.setRst, State.setPreemptor]
    | preempt k =>
      have hie : s.ie = false := by simpa [hp] using h2
      simp [preemptorStep, hp, hie, State.inputsUsed, State.setRst]
    | preemptNM k => simp [hp] at h2

/-- With no reset and no request served at this point the step is the Host's or the Encoder's. -/
theorem step_undisturbed {s : State} (h : s.undisturbedNow) : step s = runStep s.inputsUsed := by
  rcases hr : s.rst with _ | ⟨b, rest⟩
  · have h1 := preemptorStep_undisturbed [] h
    have h2 : s.setRst [] = s := by simp [State.setRst, ← hr]
    have h3 : ({ s.inputsUsed with rst := [] } : State) = s.inputsUsed := by simp [State.inputsUsed, hr]
    rw [h2, h3] at h1
    simpa [step, systemStep, hr] using h1
  · have hb : b = false := by simpa [hr] using h.1
    subst hb
    have h1 := preemptorStep_undisturbed rest h
    have h3 : ({ s.inputsUsed with rst := rest } : State) = s.inputsUsed := by simp [State.inputsUsed, hr]
    rw [h3] at h1
    simpa [step, systemStep, hr] using h1

/-- A step that is no reset, on a request that is served. -/
theorem step_served {s : State} (hr : s.rst.head? ≠ some true) {k : Nat} {rest : List Interrupt}
    (h : (s.preemptor = .preempt k :: rest ∧ s.ie = true) ∨ s.preemptor = .preemptNM k :: rest) :
    step s = .next (((s.setRst s.rst.tail).setPreemptor rest).emit k) := by
  have key : ∀ r, preemptorStep (s.setRst r) = .next (((s.setRst r).setPreemptor rest).emit k) := by
    intro r
    rcases h with ⟨hp, hie⟩ | hp
    · simp [preemptorStep, hp, hie, State.steal]
    · simp [preemptorStep, hp, State.steal]
  rcases hl : s.rst with _ | ⟨b, l⟩
  · have h2 : s.setRst [] = s := by simp [State.setRst, ← hl]
    have h1 := key []
    rw [h2] at h1
    simpa [step, systemStep, hl, h2] using h1
  · have hb : b = false := by simpa [hl] using hr
    subst hb
    simpa [step, systemStep, hl] using key l

/-- One step of the system, with its guards: a reset, a theft of cycles, a Host step in IDLE, or the Encoder's
operation. -/
theorem step_cases {s t : State} (h : step s = .next t) :
    (∃ r, s.rst = true :: r ∧ t = (s.setRst r).systemReset) ∨
    (∃ k rest, s.rst.head? ≠ some true ∧
      ((s.preemptor = .preempt k :: rest ∧ s.ie = true) ∨ s.preemptor = .preemptNM k :: rest) ∧
      t = ((s.setRst s.rst.tail).setPreemptor rest).emit k) ∨
    (s.undisturbedNow ∧ s.phase = Phase.idle ∧ hostStep s.inputsUsed = .next t) ∨
    (s.undisturbedNow ∧ s.phase ≠ Phase.idle ∧ ∃ i, decodePhase s.phase = .instr i ∧
      exec i s.inputsUsed = .next t) := by
  by_cases hr : s.rst.head? = some true
  · obtain ⟨r, hl⟩ := List.head?_eq_some_iff.mp hr
    refine .inl ⟨r, hl, ?_⟩
    simp only [step, systemStep, hl] at h
    cases h
    rfl
  by_cases hu : s.undisturbedNow
  · rw [step_undisturbed hu] at h
    rcases runStep_cases h with ⟨hph, hh⟩ | ⟨hph, he⟩
    · exact .inr (.inr (.inl ⟨hu, hph, hh⟩))
    · obtain ⟨i, hd, hx⟩ := encoderStep_cases he
      exact .inr (.inr (.inr ⟨hu, hph, i, hd, hx⟩))
  · have hserved : ∃ k rest,
        (s.preemptor = .preempt k :: rest ∧ s.ie = true) ∨ s.preemptor = .preemptNM k :: rest := by
      rcases hp : s.preemptor with _ | ⟨x, rest⟩
      · exact absurd ⟨hr, by simp [hp]⟩ hu
      · cases x with
        | quiet => exact absurd ⟨hr, by simp [hp]⟩ hu
        | preempt k =>
          refine ⟨k, rest, .inl ⟨rfl, ?_⟩⟩
          by_contra hie
          exact hu ⟨hr, by simp [hp, hie]⟩
        | preemptNM k => exact ⟨k, rest, .inr rfl⟩
    obtain ⟨k, rest, hs⟩ := hserved
    rw [step_served hr hs] at h
    cases h
    exact .inr (.inl ⟨k, rest, hr, hs, rfl⟩)

end Sys2Proof.Machine
end

