-- ==== Sys2Proof/Tests/Slice0.lean ====
section
/-! SUPPORT. The model's own tests. Expected values come from spec/: the vectors of 95_test_vectors.md (named beside each
test), the table of 43_timing_profile.md R165, and words written out from 30_encoding.md. After them the witnesses of the
statements' hypotheses. -/

namespace Sys2Proof.Tests

open Sys2Proof.Machine

/-! The reference configurations of 43_timing_profile.md R165, with what R165 leaves out: bands of R158's orientation, a
string of one device. -/

/-- What R165 leaves out, and a nominal profile not yet derived at 8 MHz with CFG_A's costs. -/
def cfgNominal : Cfg where
  fHz := 8000000
  t0hNs := 400
  t1hNs := 850
  tbitNs := 1250
  tresetNs := 50000
  t0hMinNs := 250
  t0hMaxNs := 550
  t1hMinNs := 650
  t1hMaxNs := 950
  base := 0
  delta := 0
  final := 0
  cEnter := 1
  cRise := 1
  cCond := 1
  cFall := 1
  cLoop := 0
  cExit := 1
  tLatch := 400
  nPix := 1
  pinId := 0
  lenBits := 16
  ieReset := true

def cfgA : Cfg := cfgNominal.cfgA

def cfgB : Cfg := cfgNominal.cfgB

def cfgC : Cfg := cfgNominal.cfgC

/-- A configuration with a length field of three bits. -/
def cfgShort : Cfg := { cfgA with lenBits := 3 }

/-- A small state: CFG_A, OE = 1, IE = 1, nothing on the line, no input. -/
def st (p : PhaseCode) : State where
  cfg := cfgA
  phase := p
  len := 1
  idx := 0
  bitcnt := 8#4
  shreg := 0xA5#8
  ieSaved := false
  pin := false
  ie := true
  oe := true
  fb := [(0, 0xA5#8)]
  trace := []
  oeTrace := []
  now := 0
  line := .driven
  host := []
  preemptor := []
  rst := []
  resets := 0
  fbGen := 0

/-- What a test reads of an outcome. -/
def view {α : Type} (o : Host.Outcome State Fault Refusal) (f : State → α) : Option α :=
  match o with
  | .next t => some (f t)
  | .fault _ => none
  | .refused _ => none

/-! Decoding: words written out bit by bit from R80, R82, R85. -/

theorem test_decode_transmit : decodeTableWord 24 0b01_0000000000000011 = some (.transmit 3) := by decide
theorem test_decode_transmit_longest : decodeTableWord 24 0b01_1111111111111111 = some (.transmit 65535) := by decide
theorem test_decode_latch : decodeTableWord 24 0b10_0000000000000000 = some .latch := by decide
theorem test_decode_latch_len_ignored : decodeTableWord 24 0b10_1010101111001101 = some .latch := by decide
theorem test_decode_reserved_00 : decode 16 .cmd 0b00_0000000000000001 = .rejected .reservedOp00 := by decide
theorem test_decode_reserved_11 : decode 16 .cmd 0b11_0000000000000000 = .rejected .reservedOp11 := by decide
theorem test_decode_cmd_too_wide : decode 16 .cmd 0x50000 = .rejected .tooWide := by decide
theorem test_decode_enter : decodeTableWord 8 0b0001 = some .enter := by decide
theorem test_decode_loadb : decodeTableWord 8 0b0010 = some .loadb := by decide
theorem test_decode_rise : decodeTableWord 8 0b0011 = some .rise := by decide
theorem test_decode_holdb : decodeTableWord 8 0b0100 = some .holdb := by decide
theorem test_decode_cond : decodeTableWord 8 0b0101 = some .cond := by decide
theorem test_decode_holdd : decodeTableWord 8 0b0110 = some .holdd := by decide
theorem test_decode_fall : decodeTableWord 8 0b0111 = some .fall := by decide
theorem test_decode_holdf : decodeTableWord 8 0b1000 = some .holdf := by decide
theorem test_decode_next : decodeTableWord 8 0b1001 = some .next := by decide
theorem test_decode_exit : decodeTableWord 8 0b1010 = some .exit := by decide
theorem test_decode_holdr : decodeTableWord 8 0b1011 = some .holdr := by decide
theorem test_decode_idle_is_no_operation : decode 16 .uop 0b0000 = .rejected .idleIsNoOperation := by decide
theorem test_decode_unused_code : decode 16 .uop 0b1100 = .rejected .unusedCode := by decide
/-- E2, E4, E5. -/
theorem test_encode : encode 16 (.transmit 36) = 0x10024 ∧ encode 16 (.transmit 65535) = 0x1FFFF ∧
    encode 16 .latch = 0x20000 := by decide

/-- D4: with LEN_BITS = 3 a command word has five bits. -/
theorem test_decode_short_words : decodeCommand 3 0b01_101 = .instr (.transmit 5) ∧ decodeCommand 3 0b10_001 = .instr .latch ∧
    decodeCommand 3 0b11_000 = .rejected .reservedOp11 ∧ decodeCommand 3 0b101_101 = .rejected .tooWide ∧
    encode 3 (.transmit 5) = 0b01_101 := by decide

/-! Well-formedness: each check refuses an ill-formed term. -/

theorem test_wf_transmit_refused : (Instr.transmit 65536).wf 16 = false ∧ (Instr.transmit 65535).wf 16 = true := by decide
theorem test_wf_idle_refused : HostStep.wf cfgA (.idle 0) = false := by decide
theorem test_wf_reserved_word_refused : HostStep.wf cfgA (.command 0x30000) = false ∧
    HostStep.wf cfgA (.command 0x40000) = false := by decide
theorem test_wf_index_refused : HostStep.wf cfgShort (.writeByte 8 0#8) = false ∧
    HostStep.wf cfgShort (.writeFb (List.replicate 9 0#8)) = false := by decide
theorem test_wf_preempt_refused : Interrupt.wf (.preempt 0) = false ∧ Interrupt.wf (.preemptNM 0) = false := by decide
theorem test_wf_cfg_refused : Cfg.wf { cfgA with fHz := 0 } = false ∧ Cfg.wf { cfgA with lenBits := 0 } = false := by decide
theorem test_wf_line_idle_refused : programWf 16 [.latch, .idle 0] = false := by decide
theorem test_wf_line_fill_refused : Line.wf 16 (.fill 21846 ⟨0, 0, 0⟩) = false := by decide
theorem test_wf_inputs_refused : State.inputsWf { st 0#4 with host := [.idle 0] } = false := by decide
theorem test_wf_accepts : HostStep.wf cfgA (.command 0x10000) = true ∧ Line.wf 16 (.fill 21845 ⟨0, 0, 0⟩) = true ∧
    Cfg.wf cfgA = true := by decide
/-- A memory with an index out of order, or outside the space, is not canonical. -/
theorem test_wf_memory_refused : Memory.wf 65536 [(3, 0#8), (1, 0#8)] = false ∧
    Memory.wf 65536 [(65536, 0#8)] = false := by decide

/-! The instructions (vectors M1 to M22). -/

/-- M1. -/
theorem test_transmit_accept : view (exec (.transmit 1) (st 0#4))
    (fun t => (t.trace, t.len, t.idx, t.phase, t.ie)) = some ([], 1, 0, 1#4, true) := by decide
/-- R119: a command presented while BUSY does nothing. -/
theorem test_transmit_busy : view (exec (.transmit 7) (st 4#4)) (fun t => (t.len, t.phase)) = some (1, 4#4) := by
  decide
/-- M21. -/
theorem test_latch_accept : view (exec .latch (st 0#4)) (fun t => (t.phase, t.trace)) = some (11#4, []) := by decide
/-- M2. -/
theorem test_enter : view (exec .enter (st 1#4)) (fun t => (t.trace, t.ieSaved, t.ie, t.phase)) =
    some ([(false, 1)], true, false, 2#4) := by decide
/-- M4. -/
theorem test_enter_empty : view (exec .enter { st 1#4 with len := 0 }) (fun t => (t.ieSaved, t.ie, t.phase)) =
    some (true, false, 10#4) := by decide
/-- M5. -/
theorem test_loadb : view (exec .loadb { st 2#4 with shreg := 0#8, bitcnt := 0#4 })
    (fun t => (t.shreg, t.bitcnt, t.phase, t.trace)) = some (0xA5#8, 8#4, 3#4, []) := by decide
/-- R103's example. -/
theorem test_loadb_second : view (exec .loadb { st 2#4 with idx := 1, len := 3, fb := Memory.ofBytes 65536 [0x00, 0xFF, 0x00] })
    (fun t => (t.shreg, t.bitcnt)) = some (0xFF#8, 8#4) := by decide
/-- M6. -/
theorem test_rise : view (exec .rise (st 3#4)) (fun t => (t.trace, t.pin, t.phase)) =
    some ([(false, 1)], true, 4#4) := by decide
/-- M7. -/
theorem test_holdb : view (exec .holdb { st 4#4 with pin := true }) (fun t => (t.trace, t.pin, t.phase)) =
    some ([(true, 2)], true, 5#4) := by decide
/-- M8. -/
theorem test_cond_one : view (exec .cond { st 5#4 with pin := true }) (fun t => (t.trace, t.pin, t.phase)) =
    some ([(true, 1)], true, 6#4) := by decide
/-- M9. -/
theorem test_cond_zero : view (exec .cond { st 5#4 with pin := true, shreg := 0x4A#8 })
    (fun t => (t.trace, t.pin, t.phase)) = some ([(true, 1)], false, 6#4) := by decide
/-- M10. -/
theorem test_holdd_one : view (exec .holdd { st 6#4 with pin := true }) (fun t => (t.trace, t.phase)) =
    some ([(true, 3)], 7#4) := by decide
/-- M12. -/
theorem test_fall_one : view (exec .fall { st 7#4 with pin := true }) (fun t => (t.trace, t.pin, t.phase)) =
    some ([(true, 1)], false, 8#4) := by decide
/-- M13. -/
theorem test_fall_zero : view (exec .fall (st 7#4)) (fun t => (t.trace, t.pin)) = some ([(false, 1)], false) := by decide
/-- M14. -/
theorem test_holdf : view (exec .holdf (st 8#4)) (fun t => (t.trace, t.phase)) = some ([(false, 2)], 9#4) := by decide
/-- M18: M15 under CFG_C. -/
theorem test_next_more_bits : view (exec .next { st 9#4 with cfg := cfgC })
    (fun t => (t.trace, t.shreg, t.bitcnt, t.idx, t.phase)) =
    some ([(false, 3)], 0x4A#8, 7#4, 0, 3#4) := by decide
/-- M17. -/
theorem test_next_more_bytes : view (exec .next { st 9#4 with shreg := 0x80#8, bitcnt := 1#4, len := 3 })
    (fun t => (t.trace, t.shreg, t.bitcnt, t.idx, t.phase)) = some ([], 0#8, 0#4, 1, 2#4) := by decide
/-- M16. -/
theorem test_next_last : view (exec .next { st 9#4 with shreg := 0x80#8, bitcnt := 1#4 })
    (fun t => (t.idx, t.phase)) = some (1, 10#4) := by decide
/-- M19. -/
theorem test_exit : view (exec .exit { st 10#4 with ie := false, ieSaved := true })
    (fun t => (t.trace, t.ie, t.phase)) = some ([(false, 1)], true, 0#4) := by decide
/-- M20. -/
theorem test_exit_disabled : view (exec .exit { st 10#4 with ie := false }) (fun t => t.ie) = some false := by decide
/-- M22. -/
theorem test_holdr : view (exec .holdr (st 11#4)) (fun t => (t.trace, t.phase, t.ie, t.pin)) =
    some ([(false, 400)], 0#4, true, false) := by decide

/-! The step and the environment. -/

/-- L6: the word 0x2FFFF is accepted as LATCH. -/
theorem test_step_command : view (step { st 0#4 with host := [.command 0x2FFFF] }) (fun t => (t.phase, t.host)) =
    some (11#4, []) := by decide
/-- E12. -/
theorem test_step_reserved : step { st 0#4 with host := [.command 0x30000] } =
    .refused (.reservedCommand 0x30000) := by rfl
/-- U14. -/
theorem test_step_illegal_phase : step (st 12#4) = .fault (.illegalPhase 12#4) := by rfl
/-- G7. -/
theorem test_step_preempt : view (step { st 0#4 with preemptor := [.preempt 9] })
    (fun t => (t.trace, t.ie, t.phase, t.preemptor)) = some ([(false, 9)], true, 0#4, []) := by decide
/-- G5, R197: held while IE = 0. -/
theorem test_step_preempt_held : view (step { st 4#4 with ie := false, pin := true, preemptor := [.preempt 9] })
    (fun t => (t.trace, t.phase, t.preemptor)) = some ([(true, 2)], 5#4, [.preempt 9]) := by decide
/-- G8: a source that ignores IE steals three cycles in HOLDB. -/
theorem test_step_unmaskable : view (step { st 4#4 with ie := false, pin := true, preemptor := [.preemptNM 3] })
    (fun t => (t.trace, t.phase)) = some ([(true, 3)], 4#4) := by decide
/-- R221: a reset in mid-cell. -/
theorem test_step_reset : view (step { st 5#4 with ie := false, pin := true, trace := [(true, 4)], oeTrace := [(true, 4)], now := 4, rst := [true] })
    (fun t => (t.trace, t.phase, t.pin, t.ie, t.now)) = some ([], 0#4, false, true, 0) := by decide
/-- P4's SETIE, R41: a Host write in no time. -/
theorem test_step_write_ie : view (step { st 0#4 with host := [.writeIe false] }) (fun t => (t.ie, t.now)) =
    some (false, 0) := by decide
/-- R119: while BUSY the Host waits. -/
theorem test_step_busy_host_waits : view (step { st 8#4 with host := [.writeOe false] }) (fun t => (t.oe, t.host)) =
    some (true, [.writeOe false]) := by decide
/-- R186: a command with OE = 0 runs, and its observation is refused. -/
theorem test_step_undriven : view (step { st 0#4 with oe := false, line := .fresh, host := [.command 0x20000] })
    (fun t => (t.phase, t.waveform, t.rxBits)) = some (11#4, none, none) := by decide
/-- R33: SETOE 0 after driven idle cycles, OE = 1, leaves those cycles their level, and a cycle after it has none. -/
theorem test_line_level : view (runSteps 3 { st 0#4 with line := .fresh, host := [.idle 5, .writeOe false, .idle 2] })
    (fun t => (t.lineLevel 3, t.lineLevel 5, t.lineLevel 7)) = some (some false, none, none) := by decide
/-- R33, R186: with the observation of the run lost, a cycle with OE = 1 still carries PIN. -/
theorem test_line_level_lost : view (step { st 4#4 with pin := true, line := .lost })
    (fun t => (t.lineLevel 1, t.waveform)) = some (some true, none) := by decide
theorem test_placed_word : view (step (State.reset.withFetchWord 8 3)) (fun t => (t.phase, t.pin)) = some (4#4, true) := by
  decide

/-! The wire (W1, W4, W7, W8) and the receiver (R1 to R10). -/

theorem test_bits : bitsOf 0xA5#8 = [true, false, true, false, false, true, false, true] := by decide
theorem test_frame_bytes : frameBytes [⟨0x12, 0x34, 0x56⟩, ⟨0x9A, 0xBC, 0xDE⟩] =
    [0x34, 0x12, 0x56, 0xBC, 0x9A, 0xDE] := by decide
theorem test_cell_zero : cellTrace cfgA false = [(false, 1), (true, 3), (false, 6)] := by decide
theorem test_cell_one : cellTrace cfgC true = [(false, 1), (true, 14), (false, 5)] := by decide
theorem test_cell_level : (List.range 11).map (cellLevel cfgA false) =
    [some false, some true, some true, some true, some false, some false, some false, some false, some false,
      some false, none] := by decide
/-- T5. -/
theorem test_transmit_trace : runs (transmitTrace cfgA [0x80]) =
    [(false, 2), (true, 7), (false, 3)] ++ (List.replicate 7 [(true, 3), (false, 7)]).flatten := by decide
/-- T4's edges. -/
theorem test_edges : risingEdges (transmitTrace cfgA [0xA5]) = [2, 12, 22, 32, 42, 52, 62, 72] ∧
    fallingEdges (transmitTrace cfgA [0xA5]) = [9, 15, 29, 35, 45, 59, 65, 79] := by decide
theorem test_decode_bit : [3, 7, 5, 6, 4].map (decodeBit cfgA) = [false, true, false, true, false] := by decide
/-- R4, R7. -/
theorem test_decode_bytes : decodeBytes cfgA ⟨[7, 3, 7, 3, 3, 7, 3, 7, 7, 3], [], false⟩ = [0xA5] := by decide
/-- R9, R10. -/
theorem test_gap : (lineFrames cfgA [(true, 7), (false, 399), (true, 3)]).length = 1 ∧
    (lineFrames cfgA [(true, 7), (false, 400), (true, 3)]).length = 2 := by decide
/-- P3: 16 high runs held and not latched; P1: the frame latched, nothing held. -/
theorem test_rxbits : (rxBitsOf cfgA (transmitTrace cfgA [0xFF] ++ transmitTrace cfgA [0x00])).length = 16 ∧
    State.rxBits { st 0#4 with trace := transmitTrace cfgA [0x00, 0xFF, 0x00] ++ [(false, 400)] } = some [] := by decide
/-- P1: one red pixel on a string of one. -/
theorem test_led : State.led { st 0#4 with trace := transmitTrace cfgA [0x00, 0xFF, 0x00] ++ [(false, 400)] } 0 =
    some ⟨0xFF, 0x00, 0x00⟩ := by decide
/-- R181: a frame of one byte leaves the string open. -/
theorem test_led_wrong_length : State.ledView { st 0#4 with trace := transmitTrace cfgA [0xFF] ++ [(false, 400)] } =
    .draw (.badFrame 0) := by decide

/-! Timing (D1, D3, D4, D8, D9 and R165). -/

theorem test_derive_a : cfgNominal.derive = cfgA ∧ cfgA.TimingValid := by decide
/-- R165's CFG_B: base, delta, final, TH0, TH1, TCELL, TL0, TL1, RESET_CYC, T_LATCH. -/
theorem test_derive_b : cfgB.derive = cfgB ∧ cfgB.TimingValid ∧
    [cfgB.base, cfgB.delta, cfgB.final, cfgB.th0, cfgB.th1, cfgB.tcell, cfgB.tl0, cfgB.tl1, cfgB.resetCyc, cfgB.tLatch] =
      [5, 7, 5, 6, 14, 20, 14, 6, 800, 800] := by decide
theorem test_derive_c : cfgC.derive = cfgC ∧ cfgC.TimingValid ∧ (cfgC.th0, cfgC.th1, cfgC.tcell) = (6, 14, 20) := by
  decide
/-- R165's nanoseconds. -/
theorem test_ns : cfgA.ns 3 = 375 ∧ cfgB.ns 14 = 875 := by
  constructor <;> norm_num [Cfg.ns, cfgA, cfgB, Cfg.cfgA, Cfg.cfgB]
theorem test_derive_16_5 : (fun c : Cfg => (c.base, c.delta, c.final, c.th0, c.th1, c.tcell, c.resetCyc))
    ({ cfgNominal with fHz := 16500000 } : Cfg).derive = (6, 6, 6, 7, 14, 21, 825) := by decide
theorem test_derive_truncates : (fun c : Cfg => (c.base, c.delta, c.final, c.tcell)) ({ cfgC with fHz := 8000000 } : Cfg).derive =
    (1, 2, 0, 11) := by decide
theorem test_slow_clock_invalid : ¬ ({ cfgNominal with fHz := 1000000 } : Cfg).derive.V1 := by decide
theorem test_round_half_up : ({ cfgNominal with fHz := 3750000 } : Cfg).cyc 400 = 2 ∧
    ({ cfgNominal with fHz := 1250000 } : Cfg).cyc 400 = 1 := by decide
theorem test_mode : modeOf 0#4 = .idle ∧ modeOf 1#4 = .transmitting ∧ modeOf 10#4 = .transmitting ∧
    modeOf 11#4 = .idle := by decide

/-! The text syntax (R88 to R90). -/

theorem test_read_program : readProgram 16 "SETIE 0\nTRANSMIT 00 ff ; two bytes\n\nIDLE 12".toList =
    some [.setIe false, .transmit [0x00, 0xFF], .idle 12] := by decide
theorem test_read_refuses : readProgram 16 "IDLE 0".toList = none ∧ readProgram 16 "TRANSMIT 0".toList = none := by decide
/-- R89's example. -/
theorem test_show_words : (readProgram 16 "SHOW (FF,00,00)".toList).map (fun p => commandWords (programSteps 16 p)) =
    some [0x10003, 0x20000] := by decide
/-- R90's example. -/
theorem test_fill_words : (readProgram 16 "FILL 12 (00,00,FF)".toList).map (fun p => commandWords (programSteps 16 p)) =
    some [0x10024, 0x20000] := by decide

/-! The witnesses: for each statement with hypotheses, a concrete state and operands that meet all of them. -/

/-- In the middle of a TRANSMIT of one byte: IE = 0 and saved 1, BITCNT = 8, IDX = 0 < LEN = 1. -/
def inside (p : PhaseCode) (pin : Level) : State := { st p with pin := pin, ie := false, ieSaved := true }

/-- The Host presents TRANSMIT(1) in IDLE. -/
def presenting : State := { st 0#4 with host := [.command 0x10001] }

/-- The invariant from its nine parts, each decidable on a concrete state. -/
theorem inv_of (s : State) (h1 : s.phase.toNat ≤ 11)
    (h2 : s.phase ∈ [Phase.idle, Phase.enter, Phase.loadb, Phase.rise, Phase.holdf, Phase.next, Phase.exit, Phase.holdr] →
      s.pin = false)
    (h3 : s.phase ∈ [Phase.holdb, Phase.cond] → s.pin = true)
    (h4 : s.phase ∈ [Phase.holdd, Phase.fall] → s.pin = s.shreg.getLsbD 7)
    (h5 : 2 ≤ s.phase.toNat ∧ s.phase.toNat ≤ 10 → s.ie = false)
    (h6 : 3 ≤ s.phase.toNat ∧ s.phase.toNat ≤ 9 → 1 ≤ s.bitcnt.toNat ∧ s.bitcnt.toNat ≤ 8 ∧ s.idx < s.len)
    (h7 : s.phase = Phase.enter → s.idx = 0) (h8 : s.phase = Phase.loadb → s.idx < s.len) (h9 : s.idx ≤ s.len) :
    s.Inv :=
  ⟨⟨h1, ⟨h2, h3, h4⟩, h5, h6⟩, h7, h8, h9⟩

theorem inv_inside_low : (inside 3#4 false).Inv ∧ (inside 2#4 false).Inv ∧ (inside 9#4 false).Inv ∧
    (inside 10#4 false).Inv := by
  refine ⟨?_, ?_, ?_, ?_⟩ <;> apply inv_of <;> decide

theorem inv_inside_high : (inside 4#4 true).Inv ∧ (inside 5#4 true).Inv ∧ (inside 7#4 true).Inv ∧
    (inside 6#4 true).Inv := by
  refine ⟨?_, ?_, ?_, ?_⟩ <;> apply inv_of <;> decide

theorem inv_outside : (st 0#4).Inv ∧ (st 1#4).Inv ∧ (st 11#4).Inv := by
  refine ⟨?_, ?_, ?_⟩ <;> apply inv_of <;> decide

theorem undisturbed_examples : (st 4#4).undisturbedNow ∧ presenting.undisturbedNow ∧ (st 0#4).undisturbedNow ∧
    ({ st 4#4 with ie := false, preemptor := [.preempt 3] } : State).undisturbedNow ∧
    ({ st 4#4 with rst := [false], preemptor := [.quiet] } : State).undisturbedNow := by
  simp [State.undisturbedNow, presenting, st]

theorem calm_examples : presenting.noReset ∧ presenting.P_NoUnmaskable ∧ presenting.quietUntilEnter ∧
    presenting.endsLow ∧ presenting.freshLine ∧ presenting.silent ∧
    decodeCommand 16 0x10001 = .instr (.transmit 1) := by
  refine ⟨?_, ?_, ?_, ?_, ?_, ?_, by decide⟩ <;>
    simp [State.noReset, State.P_NoUnmaskable, State.quietUntilEnter, State.endsLow, State.freshLine, State.silent,
      presenting, st, cfgA, cfgNominal]

theorem witness_StepRunsTheDecodedInstruction :
    ((st 4#4).undisturbedNow ∧ (st 4#4).busy = true ∧ decodePhase (st 4#4).phase = .instr .holdb) ∧
    (presenting.undisturbedNow ∧ presenting.phase = Phase.idle ∧ presenting.host = .command 0x10001 :: [] ∧
      decodeCommand 16 0x10001 = .instr (.transmit 1)) :=
  ⟨⟨undisturbed_examples.1, by decide, by decide⟩, undisturbed_examples.2.1, by decide, by decide, by decide⟩

theorem witness_PlacedWordRunsNext : (Instr.rise).format = .uop ∧ (Instr.transmit 65535).format = .cmd ∧
    (Instr.transmit 65535).wf 16 = true := by decide

theorem witness_DecodeAndEncodeAgree : decodeCommand 16 0x1FFFF = .instr (.transmit 65535) ∧
    decodeCommand 16 0x2ABCD = .instr .latch ∧ decodePhase 11#4 = .instr .holdr ∧
    (Instr.transmit 7).wf 3 = true ∧ decodeCommand 3 0b01_111 = .instr (.transmit 7) := by decide

theorem witness_CommandsByMatchAndMask : (0x20000 ≤ 0x20000 ∧ 0x20000 ≤ 0x2FFFF) ∧
    (0x20000 ≤ 0x2FFFF ∧ 0x2FFFF ≤ 0x2FFFF) := by decide

theorem witness_ReservedWordsAreRefused : (0xFFFF < 0x10000 ∧ 0x30000 ≤ 0x30000) ∧
    (0xFFFF < 2 ^ (st 0#4).cfg.lenBits ∧ 3 * 2 ^ (st 0#4).cfg.lenBits ≤ 0x30000) ∧
    ({ st 0#4 with host := [.command 0x30000] } : State).undisturbedNow := by
  refine ⟨by decide, by decide, ?_⟩
  simp [State.undisturbedNow, st]

theorem witness_OnlyUnusedCodesFault : ((st 12#4).undisturbedNow ∧ 12 ≤ (st 12#4).phase.toNat) ∧
    ((st 15#4).undisturbedNow ∧ 12 ≤ (st 15#4).phase.toNat) ∧
    ((st 11#4).phase.toNat ≤ 11 ∧ (st 11#4).phase ≠ Phase.idle) ∧ (st 0#4).phase.toNat ≤ 11 := by
  refine ⟨⟨?_, by decide⟩, ⟨?_, by decide⟩, by decide, by decide⟩ <;> simp [State.undisturbedNow, st]

theorem witness_SystemResetTakesTheResetState : ({ st 5#4 with rst := [true] } : State).rst = true :: [] ∧
    (st 0#4).undisturbedNow ∧ (st 0#4).phase = Phase.idle ∧ (st 0#4).host = [] :=
  ⟨rfl, undisturbed_examples.2.2.1, rfl, rfl⟩

theorem witness_EveryStepKeepsTheInvariant : ∃ t, (inside 5#4 true).Inv ∧ step (inside 5#4 true) = .next t :=
  ⟨_, inv_inside_high.2.1, rfl⟩

theorem witness_ReachableStatesMeetR42 : ∃ t,
    runSteps 1 (State.afterReset cfgA 0 0 [.command 0x10001] [] []) = .next t ∧ t.phase = Phase.enter :=
  ⟨_, rfl, rfl⟩

/-- Five driven cycles are past. -/
def past : State := { st 3#4 with trace := [(false, 5)], oeTrace := [(true, 5)], now := 5 }

theorem past_tidy : past.Tidy := ⟨by decide, ⟨by decide, by decide⟩, by simp [past], by simp [past], by decide⟩

theorem witness_EveryStepKeepsHistoryAndMemoryTidy : ∃ t, past.Tidy ∧ step past = .next t := ⟨_, past_tidy, rfl⟩

theorem witness_LineCarriesThePinWhileDriven : ∃ t, past.historyWhole ∧ past.rst.head? ≠ some true ∧
    step past = .next t ∧ past.now < t.now ∧ (∀ seg ∈ past.oeTrace, seg.1 = true) ∧
    ({ past with rst := [true] } : State).rst = true :: [] :=
  ⟨_, past_tidy.2.1, by decide, rfl, by decide, by simp [past], rfl⟩

theorem witness_EnvironmentMeetsItsPremises :
    (∃ t, step { st 5#4 with pin := true, shreg := 0#8 } = .next t ∧ t.pin ≠ true) ∧
    (∃ t, (st 4#4).phase ≠ Phase.idle ∧ step (st 4#4) = .next t) ∧
    (∃ t, (st 0#4).ie = true ∧ step { st 0#4 with preemptor := [.preempt 1] } = .next t) ∧
    (∃ t, step { st 4#4 with ie := false, preemptor := [.preemptNM 1] } = .next t) ∧
    (∃ t, step { st 5#4 with rst := [true] } = .next t) :=
  ⟨⟨_, rfl, by decide⟩, ⟨_, by decide, rfl⟩, ⟨_, rfl, rfl⟩, ⟨_, rfl⟩, ⟨_, rfl⟩⟩

theorem witness_EveryStepKeepsTheLineStatus : ∃ t, (st 3#4).lineAgrees ∧ step (st 3#4) = .next t :=
  ⟨_, by simp [State.lineAgrees, st], rfl⟩

theorem witness_TransmitIsAccepted : presenting.undisturbedNow ∧ presenting.phase = Phase.idle ∧
    presenting.host = .command 0x10001 :: [] ∧ decodeCommand 16 0x10001 = .instr (.transmit 1) ∧
    (st 4#4).undisturbedNow ∧ (st 4#4).phase ≠ Phase.idle ∧ 0 < 2 ^ (st 0#4).cfg.lenBits ∧
    65535 < 2 ^ (st 0#4).cfg.lenBits :=
  ⟨undisturbed_examples.2.1, rfl, rfl, by decide, undisturbed_examples.1, by decide, by decide, by decide⟩

theorem witness_LatchIsAccepted : (st 0#4).phase = Phase.idle ∧
    ({ st 0#4 with host := [.command 0x20000] } : State).undisturbedNow ∧
    decodeCommand 16 0x20000 = .instr .latch ∧
    (st 11#4).rst.head? ≠ some true ∧ ∃ t, step (st 11#4) = .next t := by
  refine ⟨rfl, ?_, by decide, by decide, ⟨_, rfl⟩⟩
  simp [State.undisturbedNow, st]

theorem witness_BusyBlockTakesNoCommand : ∃ t,
    ({ st 8#4 with host := [.command 0x20000] } : State).phase ≠ Phase.idle ∧
    step { st 8#4 with host := [.command 0x20000] } = .next t :=
  ⟨_, by decide, rfl⟩

theorem witness_EnterSavesAndClearsTheFlag : (st 1#4).R42 ∧ (st 1#4).phase = Phase.enter ∧ (st 1#4).ie = true ∧
    ({ st 1#4 with preemptor := [.preempt 5] } : State).rst.head? ≠ some true :=
  ⟨inv_outside.2.1.1, rfl, rfl, by decide⟩

theorem witness_ExitRestoresTheFlag : (inside 10#4 false).R42 ∧ (inside 10#4 false).phase = Phase.exit :=
  ⟨inv_inside_low.2.2.2.1, rfl⟩

theorem witness_LoadbTakesTheIndexedByte : Memory.read (inside 2#4 false).fb (inside 2#4 false).idx = some 0xA5#8 ∧
    (inside 2#4 false).Inv ∧ (inside 2#4 false).phase = Phase.loadb :=
  ⟨by decide, inv_inside_low.2.1, rfl⟩

theorem witness_DriveStepsWriteThePin : ({ st 5#4 with shreg := 0x7F#8 } : State).shreg.getLsbD 7 = false ∧
    ({ st 5#4 with shreg := 0x80#8 } : State).shreg.getLsbD 7 = true ∧ (inside 3#4 false).R42 ∧ (inside 5#4 true).R42 ∧
    (inside 7#4 true).R42 :=
  ⟨by decide, by decide, inv_inside_low.1.1, inv_inside_high.2.1.1, inv_inside_high.2.2.1.1⟩

theorem witness_HoldsOnlyLetTimePass : (inside 4#4 true).R42 ∧ (inside 6#4 true).R42 ∧ (st 11#4).R42 :=
  ⟨inv_inside_high.1.1, inv_inside_high.2.2.2.1, inv_outside.2.2.1⟩

theorem witness_NextAdvancesThePosition : ({ st 9#4 with bitcnt := 8#4 } : State).bitcnt - 1#4 ≠ 0#4 ∧
    ({ st 9#4 with bitcnt := 2#4 } : State).bitcnt - 1#4 ≠ 0#4 ∧
    ({ st 9#4 with bitcnt := 1#4 } : State).bitcnt - 1#4 = 0#4 ∧
    (inside 9#4 false).R42 ∧ (inside 9#4 false).Tidy ∧ (inside 9#4 false).phase = Phase.next :=
  ⟨by decide, by decide, by decide, inv_inside_low.2.2.1.1,
    ⟨by decide, ⟨rfl, rfl⟩, by simp [inside, st], by simp [inside, st], by decide⟩, rfl⟩

theorem witness_InstructionsWriteOnlyTheirRegisters : ∃ t, exec .next (inside 9#4 false) = .next t := ⟨_, rfl⟩

theorem witness_EveryOperationHasConstantCost : ∃ t, exec .cond (inside 5#4 true) = .next t := ⟨_, rfl⟩

theorem witness_PhaseFollowsTheSuccessorTable : ∃ t, (st 9#4).undisturbedNow ∧ (st 9#4).phase ≠ Phase.idle ∧
    step (st 9#4) = .next t ∧ (st 0#4).phase = Phase.idle := by
  refine ⟨_, ?_, by decide, rfl, rfl⟩
  simp [State.undisturbedNow, st]

theorem witness_HostActsInIdleOnly : ({ st 0#4 with host := [.idle 1] } : State).undisturbedNow ∧
    ({ st 0#4 with host := [.writeByte 65535 0#8] } : State).undisturbedNow ∧
    (65535 < 2 ^ (st 0#4).cfg.lenBits ∧ 2 ^ (st 0#4).cfg.lenBits ≤ 65536) ∧
    (∃ t, (st 4#4).phase ≠ Phase.idle ∧ (st 4#4).rst.head? ≠ some true ∧ step (st 4#4) = .next t) := by
  refine ⟨?_, ?_, by decide, ⟨_, by decide, by decide, rfl⟩⟩ <;> simp [State.undisturbedNow, st]

theorem witness_PreemptionOnlyWhileEnabled :
    ({ st 0#4 with preemptor := [.preempt 1] } : State).preemptor = .preempt 1 :: [] ∧ (st 0#4).ie = true ∧
    (inside 4#4 true).ie = false ∧ (st 0#4).R42 ∧ (st 0#4).rst.head? ≠ some true :=
  ⟨rfl, rfl, rfl, inv_outside.1.1, by decide⟩

theorem witness_NoPreemptionInsideTransmit : ({ inside 4#4 true with preemptor := [.preempt 3] } : State).Inv ∧
    ({ inside 4#4 true with preemptor := [.preempt 3] } : State).P_NoUnmaskable ∧
    (inside 10#4 false).Inv ∧ (inside 2#4 false).Inv ∧ (inside 2#4 false).P_NoUnmaskable := by
  refine ⟨?_, ?_, inv_inside_low.2.2.2, inv_inside_low.2.1, ?_⟩
  · exact inv_inside_high.1
  · simp [State.P_NoUnmaskable]
  · simp [State.P_NoUnmaskable, inside, st]

/-- TRANSMIT(0) with a preemption before ENTER: acceptance, theft, ENTER, EXIT. -/
theorem witness_TransmitRestoresTheInterruptFlag : ∃ t,
    let s : State := { st 0#4 with host := [.command 0x10000], preemptor := [.quiet, .preempt 5] }
    s.undisturbedNow ∧ s.noReset ∧ decodeCommand 16 0x10000 = .instr (.transmit 0) ∧
    (∀ m u, 1 ≤ m → m < 4 → runSteps m s = .next u → u.phase ≠ Phase.idle) ∧
    runSteps 4 s = .next t ∧ t.phase = Phase.idle := by
  refine ⟨_, ?_, ?_, by decide, ?_, rfl, rfl⟩
  · simp [State.undisturbedNow, st]
  · simp [State.noReset, st]
  · intro m u h1 h2 h
    interval_cases m <;> cases h <;> decide

theorem witness_CellDependsOnItsBitAlone : (inside 3#4 false).Inv ∧ (inside 3#4 false).P_NoUnmaskable ∧
    (inside 3#4 false).noReset ∧ (inside 3#4 false).phase = Phase.rise := by
  refine ⟨inv_inside_low.1, ?_, ?_, rfl⟩
  · simp [State.P_NoUnmaskable, inside, st]
  · simp [State.noReset, inside, st]

theorem witness_TransmitAppendsItsWaveform : (presenting.phase = Phase.idle ∧ presenting.pin = false ∧
    presenting.host = .command 0x10001 :: [] ∧ decodeCommand 16 0x10001 = .instr (.transmit 1) ∧
    presenting.noReset ∧ presenting.P_NoUnmaskable ∧ presenting.quietUntilEnter) ∧
    ((st 1#4).R42 ∧ (st 1#4).phase = Phase.enter ∧ (st 1#4).ie = true ∧ (st 1#4).rst.head? ≠ some true) :=
  ⟨⟨rfl, rfl, rfl, by decide, calm_examples.1, calm_examples.2.1, calm_examples.2.2.1⟩,
    inv_outside.2.1.1, rfl, rfl, by decide⟩

theorem witness_EdgesOfTransmitDoNotDrift : cfgA.V4 ∧ cfgA.V5 ∧ cfgA.V6 := by decide

theorem witness_LatchHoldsTheLineLow : ∃ t, (st 11#4).phase = Phase.holdr ∧ (st 11#4).pin = false ∧
    (st 11#4).noReset ∧ (∀ m u, m < 1 → runSteps m (st 11#4) = .next u → u.phase ≠ Phase.idle) ∧
    runSteps 1 (st 11#4) = .next t ∧ t.phase = Phase.idle ∧ (st 11#4).cfg.V8 ∧ 0 < (st 11#4).cfg.tLatch := by
  refine ⟨_, rfl, rfl, ?_, ?_, rfl, rfl, by decide, by decide⟩
  · simp [State.noReset, st]
  · intro m u h1 h
    interval_cases m
    cases h
    decide

theorem witness_ThresholdTellsTheSymbolsApart : cfgA.V5 := by decide

/-- A maskable source preempts in IDLE, and again before ENTER commits. -/
def preempted : State := { presenting with preemptor := [.preempt 3, .quiet, .preempt 500] }

theorem preempted_calm : preempted.phase = Phase.idle ∧ preempted.pin = false ∧ preempted.ie = true ∧
    preempted.host = .command 0x10001 :: [] ∧ preempted.noReset ∧ preempted.P_NoUnmaskable ∧ preempted.endsLow ∧
    preempted.freshLine ∧ ¬ preempted.quietUntilEnter := by
  refine ⟨rfl, rfl, rfl, rfl, ?_, ?_, ?_, .inl rfl, ?_⟩ <;>
    simp [State.noReset, State.P_NoUnmaskable, State.quietUntilEnter, State.endsLow, preempted, presenting, st, cfgA,
      cfgNominal]

/-- TRANSMIT(0), preempted twice, is back in IDLE after five steps and not before (R184). -/
theorem test_returnsIn : ∃ t,
    ({ preempted with host := [.command 0x10000] } : State).returnsIn 5 [] t ∧ t.trace = [(false, 3), (false, 500),
      (false, 1), (false, 1)] := by
  refine ⟨_, ⟨rfl, ⟨rfl, rfl⟩, ?_⟩, by decide⟩
  intro m u h1 h
  interval_cases m <;> cases h <;> decide

theorem witness_TransmitAddsEightRunsPerByte : (preempted.phase = Phase.idle ∧ preempted.pin = false ∧
    preempted.host = .command 0x10001 :: [] ∧ decodeCommand preempted.cfg.lenBits 0x10001 = .instr (.transmit 1)) ∧
    preempted.noReset ∧ preempted.P_NoUnmaskable ∧ preempted.endsLow ∧ preempted.cfg.V4 ∧ preempted.cfg.V6 :=
  have h := preempted_calm
  ⟨⟨h.1, h.2.1, h.2.2.2.1, by decide⟩, h.2.2.2.2.1, h.2.2.2.2.2.1, h.2.2.2.2.2.2.1, by decide, by decide⟩

theorem witness_RoundTripOfTheLineCode : (preempted.phase = Phase.idle ∧ preempted.pin = false ∧
    preempted.host = .command 0x10001 :: [] ∧ decodeCommand preempted.cfg.lenBits 0x10001 = .instr (.transmit 1)) ∧
    preempted.noReset ∧ preempted.P_NoUnmaskable ∧ preempted.freshLine ∧ preempted.cfg.V4 ∧ preempted.cfg.V5 ∧
    preempted.cfg.V6 ∧ preempted.cfg.V7 :=
  have h := preempted_calm
  ⟨⟨h.1, h.2.1, h.2.2.2.1, by decide⟩, h.2.2.2.2.1, h.2.2.2.2.2.1, h.2.2.2.2.2.2.2.1, by decide, by decide,
    by decide, by decide⟩

/-- After TRANSMIT FF, as in P3; with nothing stolen the next one continues, with 500 cycles stolen it does not. -/
theorem witness_TransmitWithoutLatchContinuesTheFrame : ∃ f,
    let s : State := { preempted with trace := transmitTrace cfgA [0xFF] }
    s.noReset ∧ s.P_NoUnmaskable ∧ s.endsLow ∧ (1 ≠ 0) ∧
    lineFrames s.cfg s.trace = [] ++ [f] ∧ f.latched = false ∧ f.highs.length % 8 = 0 ∧
    s.cfg.V4 ∧ s.cfg.V5 ∧ s.cfg.V6 ∧ s.cfg.V7 ∧
    s.tailLow + 0 + s.cfg.cEnter + s.cfg.cRise < s.cfg.resetCyc ∧
    s.cfg.resetCyc ≤ s.tailLow + 503 + s.cfg.cEnter + s.cfg.cRise := by
  refine ⟨⟨List.replicate 8 7, List.replicate 7 3, false⟩, preempted_calm.2.2.2.2.1, preempted_calm.2.2.2.2.2.1,
    .inr (by decide), by decide, by decide, rfl, by decide, by decide, by decide, by decide, by decide, by decide,
    by decide⟩

theorem witness_OnlySymbolsReachTheLine : ∃ t, cfgA.V6 ∧ (∀ k, Interrupt.preemptNM k ∉ ([] : List Interrupt)) ∧
    runSteps 3 (State.afterReset cfgA 0 0 [.command 0x10000] [] []) = .next t ∧ t.phase = Phase.idle :=
  ⟨_, by decide, by simp, rfl, rfl⟩

/-- RISE with OE = 0 for one cycle: it is recorded as undriven (R33). -/
theorem test_undriven_rise : ∃ t, exec .rise { st 3#4 with oe := false } = .next t ∧ t.oeTrace = [(false, 1)] ∧
    t.lineLevel 0 = none ∧ t.line = .lost := ⟨_, rfl, by decide, by decide, rfl⟩

theorem witness_UndrivenCommandsRunUnobserved : (∃ t, exec .rise (st 3#4) = .next t) ∧
    (∃ t, exec .latch (st 0#4) = .next t) ∧ (Instr.latch).format = .cmd ∧ (st 0#4).phase = Phase.idle ∧
    (∃ t, ({ st 3#4 with line := .lost } : State).rst.head? ≠ some true ∧ step { st 3#4 with line := .lost } = .next t) :=
  ⟨⟨_, rfl⟩, ⟨_, rfl⟩, rfl, rfl, ⟨_, by decide, rfl⟩⟩

/-- P1, with the pixel red, idle time between its lines, SETOE 0 behind them and a source that preempts. -/
theorem witness_ShowEndsWithThePixelsOnTheString :
    let s : State := { st 0#4 with
      host := [.idle 4, .writeFb [0x00, 0xFF, 0x00], .command 0x10003, .idle 2, .command 0x20000, .writeOe false]
      preemptor := [.quiet, .preempt 9] }
    s.phase = Phase.idle ∧ s.pin = false ∧ s.lineAgrees ∧ s.line ≠ .lost ∧ s.P_OE ∧ s.P_NoUnmaskable ∧
    (commandPart s.host).filter (fun h => !h.isIdle) = showSteps s.cfg.lenBits [⟨0xFF, 0x00, 0x00⟩] ∧
    s.P_HostFrame [[⟨0xFF, 0x00, 0x00⟩]] ∧ s.freshLine ∧ 0 < s.cfg.nPix ∧ s.cfg.TimingValid := by
  refine ⟨rfl, rfl, ?_, by decide, ⟨?_, by decide, ?_⟩, ?_, by decide, ⟨by decide, by decide⟩, .inl rfl, by decide,
    by decide⟩
  · simp [State.lineAgrees, st]
  · simp [State.noReset, st]
  · intro _
    exact ⟨rfl, by decide⟩
  · simp [State.P_NoUnmaskable]

/-- A Host that idles, sends a byte and latches, while a source that ignores IE preempts and one reset comes. -/
theorem witness_EveryRunEnds :
    let s : State := { st 0#4 with
      host := [.idle 4, .command 0x10001, .command 0x20000], preemptor := [.preemptNM 2], rst := [false, false, true] }
    s.phase = Phase.idle ∧ ∀ w, HostStep.command w ∈ s.host → ∃ i, decodeCommand s.cfg.lenBits w = .instr i := by
  refine ⟨rfl, fun w h => ?_⟩
  simp at h
  rcases h with rfl | rfl
  · exact ⟨.transmit 1, by decide⟩
  · exact ⟨.latch, by decide⟩

/-- LATCH with SETOE 0 behind it, preempted once: the run ends after three steps, with the directive still to come (R184). -/
theorem test_endsIn : ∃ t, ({ st 0#4 with
    host := [.command 0x20000, .writeOe false, .idle 7], preemptor := [.preempt 2] } : State).endsIn 3 t ∧
    t.host = [.writeOe false, .idle 7] ∧ t.waveform = some [(false, 402)] := by
  refine ⟨_, ⟨rfl, ⟨rfl, rfl⟩, ?_⟩, rfl, by decide⟩
  intro m u h1 h
  unfold State.ended
  interval_cases m <;> cases h <;> decide

/-- The part up to the last command, and P_OE's reading of it. -/
theorem test_commandPart : commandPart [.idle 1, .command 0x20000, .writeOe false] = [.idle 1, .command 0x20000] ∧
    commandPart [.writeIe true, .idle 2] = [] ∧
    oeHeld true (commandPart [.command 0x20000, .writeOe false]) = true ∧
    oeHeld true (commandPart [.command 0x20000, .writeOe false, .command 0x20000]) = false := by decide

/-- Held and quiet entries: two requests and one reset count. -/
theorem test_disturbances : ({ st 0#4 with rst := [false, true], preemptor := [.quiet, .preempt 1, .preemptNM 2] } :
    State).disturbances = 3 := by decide

/-- The steps of each action: 3 + 57 for one byte, 2 for a LATCH, 1 for idle time. -/
theorem test_hostSteps : [HostStep.command 0x10001, .command 0x20000, .idle 9].map (HostStep.steps cfgA) = [60, 2, 1] := by
  decide

/-- A Host that sets OE before its first command keeps P_OE; one that clears it after, or sets it too late, does not. -/
theorem test_oeHeld : oeHeld false [.idle 3, .writeOe true, .command 0x20000] = true ∧
    oeHeld true [.command 0x20000, .writeOe false] = false ∧ oeHeld false [.command 0x20000, .writeOe true] = false := by
  decide

/-- Two frames with idle time between, and a LATCH before them; a frame without its LATCH is none. -/
theorem test_framesPresented :
    framesPresented (st 0#4) none ([.command 0x20000] ++ showSteps 16 [⟨1, 2, 3⟩] ++ [.idle 9] ++ showSteps 16 [⟨4, 5, 6⟩]) =
      some [[2, 1, 3], [5, 4, 6]] ∧
    framesPresented (st 0#4) none (transmitSteps 16 [1, 2, 3]) = none ∧
    framesPresented (st 0#4) none (transmitSteps 16 [1, 2] ++ [.command 0x20000]) = none := by decide

/-- After TRANSMIT 00 the frame is open; after a further RESET_CYC low cycles it is latched, and of exactly NPIX devices
where the frame has three bytes. -/
theorem witness_RxBitsAreTheBitsNotYetLatched :
    (lineFrames cfgA (transmitTrace cfgA [0x00]) = [] ++ [⟨List.replicate 8 3, List.replicate 7 7, false⟩]) ∧
    endsInGap cfgA.resetCyc (transmitTrace cfgA [0x00] ++ [(false, 400)]) = true ∧
    (preempted.noReset ∧ preempted.P_NoUnmaskable ∧ preempted.freshLine ∧ (1 ≠ 0) ∧
      preempted.cfg.V4 ∧ preempted.cfg.V5 ∧ preempted.cfg.V6 ∧ preempted.cfg.V7) ∧
    (∃ f, lineFrames cfgA (transmitTrace cfgA [0x00, 0xFF, 0x00] ++ [(false, 400)]) = [] ++ f :: [] ∧
      f.latched = true ∧ (decodeBytes cfgA f).length = 3 * cfgA.nPix) ∧
    (st 0#4).line ≠ .lost := by
  refine ⟨by decide, by decide, ⟨preempted_calm.2.2.2.2.1, preempted_calm.2.2.2.2.2.1, preempted_calm.2.2.2.2.2.2.2.1,
    by decide, by decide, by decide, by decide, by decide⟩, ⟨⟨List.replicate 8 3 ++ List.replicate 8 7 ++
    List.replicate 8 3, List.replicate 8 7 ++ List.replicate 8 3 ++ List.replicate 7 7, true⟩, by decide, by decide,
    by decide⟩, by decide⟩

theorem witness_ConversionsRoundAsStated : 0 < cfgA.fHz := by decide

theorem witness_ResetCyclesAreTheLeastThatLast : cfgA.tresetNs = 50000 ∧ cfgA.fHz = 8000000 := by decide

theorem witness_DerivedProfileHitsTheNominals : cfgNominal.ovhH0 ≤ cfgNominal.cyc cfgNominal.t0hNs ∧
    cfgNominal.ovhH1 ≤ cfgNominal.cyc cfgNominal.t1hNs ∧
    cfgNominal.derive.base ≤ cfgNominal.cyc cfgNominal.t1hNs - cfgNominal.ovhH1 ∧
    cfgNominal.ovhCell ≤ cfgNominal.cyc cfgNominal.tbitNs ∧
    cfgNominal.derive.base + cfgNominal.derive.delta ≤ cfgNominal.cyc cfgNominal.tbitNs - cfgNominal.ovhCell := by
  decide

/-- TRANSMIT(0) from reset, five registers at other values. -/
theorem witness_RegistersAreWrittenBeforeTheyAreRead : ∃ t,
    runSteps 2 (State.afterReset cfgA 0 0 [.command 0x10000] [] []) = .next t ∧ t.phase = Phase.exit :=
  ⟨_, rfl, rfl⟩

theorem witness_CellIsLeadHighTail : (inside 3#4 false).Inv ∧ (inside 3#4 false).P_NoUnmaskable ∧
    (inside 3#4 false).noReset ∧ (inside 3#4 false).phase = Phase.rise :=
  witness_CellDependsOnItsBitAlone

theorem witness_BitsGoOutInTheOrderOfTheWire : 0 < 8 * [0xA5#8].length ∧ 7 < 8 * [0xA5#8].length ∧ 9 < cfgA.tcell := by
  decide

theorem witness_ShowAndFillExpand : 3 * (List.replicate 21845 (⟨0, 0, 0⟩ : Rgb)).length ≤ 65535 ∧
    (∀ pixels ∈ [[(⟨1, 2, 3⟩ : Rgb)], [⟨4, 5, 6⟩]], pixels.length = cfgA.nPix) ∧
    3 * cfgA.nPix < 2 ^ cfgA.lenBits := by
  refine ⟨by rw [List.length_replicate], by decide, by decide⟩

end Sys2Proof.Tests
end

/-! SUPPORT. What one instruction does, a case for each meaning, with the frame and the cost of all. -/

namespace Sys2Proof.Machine

/-- What `exec` answers, with a name for each case: a command that a busy block leaves waiting, an acceptance in IDLE,
or the one effect of a micro-operation (two for NEXT). `exec_executes` ties it to the model. -/
inductive Executes (s : State) : Instr → State → Prop
  | waits {i : Instr} (hi : i.format = .cmd) (hb : s.phase ≠ Phase.idle) : Executes s i s
  | transmit (n : Nat) (hp : s.phase = Phase.idle) : Executes s (.transmit n) (s.acceptTransmit n)
  | latch (hp : s.phase = Phase.idle) : Executes s .latch s.acceptLatch
  | enter : Executes s .enter ((s.spend s.cfg.cEnter).acquire.goto s.afterEnter)
  | loadb : Executes s .loadb (((s.spend 0).loadShift s.indexedByte).goto Phase.rise)
  | rise : Executes s .rise (((s.spend s.cfg.cRise).drive true).goto Phase.holdb)
  | holdb : Executes s .holdb ((s.spend s.cfg.base).goto Phase.cond)
  | cond : Executes s .cond (((s.spend s.cfg.cCond).drive s.condPin).goto Phase.holdd)
  | holdd : Executes s .holdd ((s.spend s.cfg.delta).goto Phase.fall)
  | fall : Executes s .fall (((s.spend s.cfg.cFall).drive false).goto Phase.holdf)
  | holdf : Executes s .holdf ((s.spend s.cfg.final).goto Phase.next)
  | nextBit (hb : s.bitsRemain = true) : Executes s .next ((s.spend s.cfg.cLoop).shiftOut.goto Phase.rise)
  | nextByte (hb : s.bitsRemain = false) :
      Executes s .next ((s.spend s.cfg.cLoop).shiftOut.advance.goto s.afterByte)
  | exit : Executes s .exit ((s.spend s.cfg.cExit).release.goto Phase.idle)
  | holdr : Executes s .holdr ((s.spend s.cfg.tLatch).goto Phase.idle)

/-! The commands' meanings, by BUSY (40_transmit.md R119). -/

theorem exec_transmit_idle {s : State} (hp : s.phase = Phase.idle) (n : Nat) :
    exec (.transmit n) s = .next (s.acceptTransmit n) := by
  simp [exec, execTransmit, State.busy, hp]

theorem exec_latch_idle {s : State} (hp : s.phase = Phase.idle) : exec .latch s = .next s.acceptLatch := by
  simp [exec, execLatch, State.busy, hp]

theorem exec_command_busy {s : State} {i : Instr} (hi : i.format = .cmd) (hp : s.phase ≠ Phase.idle) :
    exec i s = .next s := by
  cases i with
  | transmit n => simp [exec, execTransmit, hp]
  | latch => simp [exec, execLatch, hp]
  | _ => cases hi

theorem exec_executes {i : Instr} {s t : State} (h : exec i s = .next t) : Executes s i t := by
  cases i with
  | transmit n =>
    by_cases hp : s.phase = Phase.idle
    · cases (exec_transmit_idle hp n).symm.trans h
      exact .transmit n hp
    · cases (exec_command_busy rfl hp).symm.trans h
      exact .waits rfl hp
  | latch =>
    by_cases hp : s.phase = Phase.idle
    · cases (exec_latch_idle hp).symm.trans h
      exact .latch hp
    · cases (exec_command_busy rfl hp).symm.trans h
      exact .waits rfl hp
  | enter => cases h; exact .enter
  | loadb => cases h; exact .loadb
  | rise => cases h; exact .rise
  | holdb => cases h; exact .holdb
  | cond => cases h; exact .cond
  | holdd => cases h; exact .holdd
  | fall => cases h; exact .fall
  | holdf => cases h; exact .holdf
  | next =>
    rw [exec_next] at h
    split at h <;> cases h
    · exact .nextBit ‹_›
    · exact .nextByte (Bool.eq_false_iff.mpr ‹_›)
  | exit => cases h; exact .exit
  | holdr => cases h; exact .holdr

/-- A command word decodes to an instruction of the command format (30_encoding.md R80). -/
theorem decodeCommand_isCommand {lenBits w : Nat} {i : Instr} (h : decodeCommand lenBits w = .instr i) :
    i.format = .cmd := by
  rcases decodeCommand_format h with ⟨n, rfl⟩ | rfl <;> rfl

/-- The frame that all instructions share: Cfg, OE, FB, the inputs and the counters of the free values. -/
theorem exec_frame {i : Instr} {s t : State} (h : exec i s = .next t) :
    t.cfg = s.cfg ∧ t.oe = s.oe ∧ t.fb = s.fb ∧ t.host = s.host ∧ t.preemptor = s.preemptor ∧ t.rst = s.rst ∧
    t.resets = s.resets ∧ t.fbGen = s.fbGen := by
  cases exec_executes h <;> exact ⟨rfl, rfl, rfl, rfl, rfl, rfl, rfl, rfl⟩

/-- Every instruction emits the cycles of its cost at the level PIN has, with OE as it is (40_transmit.md R116). -/
theorem exec_emits {i : Instr} {s t : State} (h : exec i s = .next t) :
    t.trace = s.trace.push s.pin (s.cfg.cost i) ∧ t.oeTrace = s.oeTrace.push s.oe (s.cfg.cost i) ∧
    t.now = s.now + s.cfg.cost i := by
  cases exec_executes h with
  | waits hi hb => cases i <;> cases hi <;> exact ⟨rfl, rfl, rfl⟩
  | _ => exact ⟨rfl, rfl, rfl⟩

/-- An instruction runs with OE as it is, or is a command that waits. -/
theorem exec_line {i : Instr} {s t : State} (h : exec i s = .next t) : t = s ∨ t.line = s.line.use s.oe := by
  cases exec_executes h with
  | waits => exact .inl rfl
  | _ => exact .inr rfl

/-- A code that is an operation is the word of that operation, a micro-operation (10_state.md R22). -/
theorem phase_of_decode {p : PhaseCode} {i : Instr} (lenBits : Nat) (h : decodePhase p = .instr i) :
    i.format = .uop ∧ p = BitVec.ofNat 4 (encode lenBits i) := by
  rcases decodePhase_cases h with ⟨rfl, rfl⟩ | ⟨rfl, rfl⟩ | ⟨rfl, rfl⟩ | ⟨rfl, rfl⟩ | ⟨rfl, rfl⟩ | ⟨rfl, rfl⟩ |
    ⟨rfl, rfl⟩ | ⟨rfl, rfl⟩ | ⟨rfl, rfl⟩ | ⟨rfl, rfl⟩ | ⟨rfl, rfl⟩ <;> exact ⟨rfl, rfl⟩

end Sys2Proof.Machine

/-! SUPPORT. The step of each agent by equations, and the packaged induction over steps and runs. -/

namespace Sys2Proof.Machine

/-! The Host's step, one equation for each action. -/

section
variable (s : State) {rest : List HostStep}

theorem hostStep_none (h : s.host = []) : hostStep s = .next (s.emit 1) := by
  simp [hostStep, h, State.idleFor_eq]

theorem hostStep_command {w : Nat} {i : Instr} (h : s.host = .command w :: rest)
    (hd : decodeCommand s.cfg.lenBits w = .instr i) : hostStep s = exec i (s.setHost rest) := by
  simp [hostStep, h, hd]

theorem hostStep_idle {k : Nat} (h : s.host = .idle k :: rest) : hostStep s = .next ((s.setHost rest).emit k) := by
  simp [hostStep, h, State.idleFor_eq]

theorem hostStep_writeFb {bytes : List Byte} (h : s.host = .writeFb bytes :: rest) :
    hostStep s = .next ((s.setHost rest).writeFb bytes) := by
  simp [hostStep, h]

theorem hostStep_writeByte {i : Nat} {b : Byte} (h : s.host = .writeByte i b :: rest) :
    hostStep s = .next ((s.setHost rest).writeByte i b) := by
  simp [hostStep, h]

theorem hostStep_writeOe {v : Bool} (h : s.host = .writeOe v :: rest) :
    hostStep s = .next ((s.setHost rest).writeOe v) := by
  simp [hostStep, h]

theorem hostStep_writeIe {v : Bool} (h : s.host = .writeIe v :: rest) :
    hostStep s = .next ((s.setHost rest).writeIe v) := by
  simp [hostStep, h]

end

/-! The step where nothing disturbs it. -/

/-- While a command is in progress an undisturbed step runs the operation of PHASE's code. -/
theorem step_operation {s : State} {i : Instr} (hu : s.undisturbedNow) (hp : s.phase ≠ Phase.idle)
    (hd : decodePhase s.phase = .instr i) : step s = exec i s.inputsUsed := by
  simp [step_undisturbed hu, runStep, hp, encoderStep, hd]

/-- In IDLE an undisturbed step is the Host's. -/
theorem step_idle {s : State} (hu : s.undisturbedNow) (hp : s.phase = Phase.idle) :
    step s = hostStep s.inputsUsed := by
  simp [step_undisturbed hu, runStep, State.busy, hp]

/-- A command that the Host presents in IDLE is run by an undisturbed step. -/
theorem step_command {s : State} {w : Nat} {rest : List HostStep} {i : Instr} (hu : s.undisturbedNow)
    (hp : s.phase = Phase.idle) (hh : s.host = .command w :: rest)
    (hd : decodeCommand s.cfg.lenBits w = .instr i) : step s = exec i (s.inputsUsed.setHost rest) :=
  (step_idle hu hp).trans (hostStep_command _ hh hd)

/-- A system reset takes the first level of `rst` and leaves what R40 says. -/
theorem step_reset {s : State} {rest : List Bool} (h : s.rst = true :: rest) :
    step s = .next (s.setRst rest).systemReset := by
  simp [step, systemStep, h]

/-! What every step keeps, packaged once. -/

/-- The instructions that a step can run in a state: the operation of PHASE's code, or in IDLE a command. -/
def State.fetches (s : State) (i : Instr) : Prop :=
  decodePhase s.phase = .instr i ∨ (s.phase = Phase.idle ∧ i.format = .cmd)

/-- A HostWrite of FB, of one byte of it, of OE or of IE (10_state.md R41 (b)). -/
inductive HostWrites (s : State) : State → Prop
  | fb (bytes : List Byte) : HostWrites s (s.writeFb bytes)
  | byte (i : Nat) (b : Byte) : HostWrites s (s.writeByte i b)
  | oe (v : Bool) : HostWrites s (s.writeOe v)
  | ie (v : Bool) : HostWrites s (s.writeIe v)

/-- What the Host's step in IDLE does once its action is taken off the list: time passes, it writes, or a command is
accepted. -/
theorem hostStep_moves {s t : State} (h : hostStep s = .next t) :
    ∃ rest, (∃ k, t = (s.setHost rest).emit k) ∨ HostWrites (s.setHost rest) t ∨
      ∃ i, i.format = .cmd ∧ exec i (s.setHost rest) = .next t := by
  rcases hostStep_cases h with ⟨hh, rfl⟩ | ⟨w, rest, i, -, hd, hx⟩ | ⟨k, rest, -, rfl⟩ | ⟨bytes, rest, -, rfl⟩ |
    ⟨i, b, rest, -, rfl⟩ | ⟨v, rest, -, rfl⟩ | ⟨v, rest, -, rfl⟩
  · exact ⟨[], .inl ⟨1, by simp [State.setHost, ← hh]⟩⟩
  · exact ⟨rest, .inr (.inr ⟨i, decodeCommand_isCommand hd, hx⟩)⟩
  · exact ⟨rest, .inl ⟨k, rfl⟩⟩
  · exact ⟨rest, .inr (.inl (.fb bytes))⟩
  · exact ⟨rest, .inr (.inl (.byte i b))⟩
  · exact ⟨rest, .inr (.inl (.oe v))⟩
  · exact ⟨rest, .inr (.inl (.ie v))⟩

/-- What a predicate has to survive to be kept by every step of the system, one field for each agent's move. -/
structure KeptByMoves (P : State → Prop) : Prop where
  reset (s : State) : P s → P s.systemReset
  inputs (s : State) (r : List Bool) (p : List Interrupt) (h : List HostStep) :
    P s → P (((s.setRst r).setPreemptor p).setHost h)
  emit (s : State) (k : Nat) : P s → P (s.emit k)
  write (s t : State) : s.phase = Phase.idle → HostWrites s t → P s → P t
  instr (s t : State) (i : Instr) : s.fetches i → exec i s = .next t → P s → P t

/-- A predicate that survives every move is kept by every step. -/
theorem KeptByMoves.step {P : State → Prop} (hP : KeptByMoves P) {s t : State} (hs : P s)
    (h : Machine.step s = .next t) : P t := by
  rcases step_cases h with ⟨r, -, rfl⟩ | ⟨k, rest, -, -, rfl⟩ | ⟨-, hp, hh⟩ | ⟨-, -, i, hd, hx⟩
  · exact hP.reset _ (hP.inputs s r s.preemptor s.host hs)
  · exact hP.emit _ k (hP.inputs s s.rst.tail rest s.host hs)
  · obtain ⟨p, hu⟩ := s.inputsUsed_eq
    obtain ⟨rest, hm⟩ := hostStep_moves hh
    have hin : P (s.inputsUsed.setHost rest) := hu ▸ hP.inputs s s.rst.tail p rest hs
    rcases hm with ⟨k, rfl⟩ | hw | ⟨i, hi, hx⟩
    · exact hP.emit _ k hin
    · exact hP.write (s.inputsUsed.setHost rest) t hp hw hin
    · exact hP.instr (s.inputsUsed.setHost rest) t i (.inr ⟨hp, hi⟩) hx hin
  · obtain ⟨p, hu⟩ := s.inputsUsed_eq
    have hin : P s.inputsUsed := hu ▸ hP.inputs s s.rst.tail p s.host hs
    exact hP.instr s.inputsUsed t i (.inl hd) hx hin

/-- A run of one step more that answers is a step that answers and a run from there. -/
theorem runSteps_succ_iff {k : Nat} {s t : State} :
    runSteps (k + 1) s = .next t ↔ ∃ u, Machine.step s = .next u ∧ runSteps k u = .next t := by
  constructor
  · intro h
    cases hs : Machine.step s with
    | next u => exact ⟨u, rfl, (runSteps_succ hs).symm.trans h⟩
    | fault r =>
      have hc : Sys2Proof.core.step s = .fault r := hs
      simp [runSteps, Host.Core.run, hc] at h
    | refused r =>
      have hc : Sys2Proof.core.step s = .refused r := hs
      simp [runSteps, Host.Core.run, hc] at h
  · rintro ⟨u, hs, hr⟩
    exact (runSteps_succ hs).trans hr

/-- A predicate that survives every move holds all along a run. -/
theorem KeptByMoves.run {P : State → Prop} (hP : KeptByMoves P) {k : Nat} {s t : State} (hs : P s)
    (h : runSteps k s = .next t) : P t := by
  induction k generalizing s with
  | zero => cases h; exact hs
  | succ k ih =>
    obtain ⟨u, hu, hr⟩ := runSteps_succ_iff.mp h
    exact ih (hP.step hs hu) hr

end Sys2Proof.Machine

/-! PROOFS. The invariant of 10_state.md R42 (O10, O11). -/

namespace Sys2Proof.Machine

/-! What the invariant says in each PHASE (10_state.md R42). -/

/-- The invariant written out: R42 (a) to (d), and what makes it inductive. -/
theorem inv_iff (s : State) : s.Inv ↔
    (s.phase.toNat ≤ 11 ∧
      ((s.phase ∈ [Phase.idle, Phase.enter, Phase.loadb, Phase.rise, Phase.holdf, Phase.next, Phase.exit, Phase.holdr] →
          s.pin = false) ∧
        (s.phase ∈ [Phase.holdb, Phase.cond] → s.pin = true) ∧
        (s.phase ∈ [Phase.holdd, Phase.fall] → s.pin = s.shreg.getLsbD 7)) ∧
      (2 ≤ s.phase.toNat ∧ s.phase.toNat ≤ 10 → s.ie = false) ∧
      (3 ≤ s.phase.toNat ∧ s.phase.toNat ≤ 9 → 1 ≤ s.bitcnt.toNat ∧ s.bitcnt.toNat ≤ 8 ∧ s.idx < s.len)) ∧
    (s.phase = Phase.enter → s.idx = 0) ∧ (s.phase = Phase.loadb → s.idx < s.len) ∧ s.idx ≤ s.len := Iff.rfl

/-- What holds from RISE to NEXT besides the level of the pin: IE is 0, BITCNT is from 1 to 8 and IDX is below LEN. -/
def State.sending (s : State) : Prop :=
  s.ie = false ∧ 1 ≤ s.bitcnt.toNat ∧ s.bitcnt.toNat ≤ 8 ∧ s.idx < s.len

/-- A state that sends has IDX at most LEN too. -/
theorem State.sending_idx_le (s : State) : s.sending ∧ s.idx ≤ s.len ↔ s.sending :=
  and_iff_left_of_imp fun ⟨_, _, _, h⟩ => Nat.le_of_lt h

theorem inv_outside {s : State} (hp : s.phase = Phase.idle ∨ s.phase = Phase.holdr) :
    s.Inv ↔ s.pin = false ∧ s.idx ≤ s.len := by
  rcases hp with hp | hp <;> simp +decide [inv_iff, hp]

theorem inv_enter {s : State} (hp : s.phase = Phase.enter) : s.Inv ↔ s.pin = false ∧ s.idx = 0 := by
  simp +decide +contextual [inv_iff, hp]

theorem inv_loadb {s : State} (hp : s.phase = Phase.loadb) :
    s.Inv ↔ s.pin = false ∧ s.ie = false ∧ s.idx < s.len := by
  have hle : s.idx < s.len ∧ s.idx ≤ s.len ↔ s.idx < s.len := and_iff_left_of_imp Nat.le_of_lt
  simp +decide [inv_iff, hp, hle, and_assoc]

theorem inv_low {s : State} (hp : s.phase = Phase.rise ∨ s.phase = Phase.holdf ∨ s.phase = Phase.next) :
    s.Inv ↔ s.pin = false ∧ s.sending := by
  rw [← s.sending_idx_le]
  rcases hp with hp | hp | hp <;> simp +decide [inv_iff, State.sending, hp, and_assoc]

theorem inv_high {s : State} (hp : s.phase = Phase.holdb ∨ s.phase = Phase.cond) :
    s.Inv ↔ s.pin = true ∧ s.sending := by
  rw [← s.sending_idx_le]
  rcases hp with hp | hp <;> simp +decide [inv_iff, State.sending, hp, and_assoc]

theorem inv_bit {s : State} (hp : s.phase = Phase.holdd ∨ s.phase = Phase.fall) :
    s.Inv ↔ s.pin = s.currentBit ∧ s.sending := by
  rw [← s.sending_idx_le]
  rcases hp with hp | hp <;> simp +decide [inv_iff, State.sending, State.currentBit, hp, and_assoc]

theorem inv_exit {s : State} (hp : s.phase = Phase.exit) :
    s.Inv ↔ s.pin = false ∧ s.ie = false ∧ s.idx ≤ s.len := by
  simp +decide [inv_iff, hp, and_assoc]

/-! Every instruction keeps it. -/

/-- A micro-operation runs where PHASE holds its code. -/
theorem State.fetches.phase {s : State} {i : Instr} (hf : s.fetches i) (hi : i.format = .uop) :
    s.phase = BitVec.ofNat 4 (encode 0 i) := by
  rcases hf with hd | ⟨-, hc⟩
  · exact (phase_of_decode 0 hd).2
  · rw [hi] at hc; cases hc

/-! Where the choices lead (10_state.md R22, 40_transmit.md R106, R110). -/

theorem State.afterEnter_eq (s : State) : s.afterEnter = if 0 < s.len then Phase.loadb else Phase.exit := by
  simp [State.afterEnter, State.hasBytes]

theorem State.afterByte_eq (s : State) : s.afterByte = if s.nextIdx < s.len then Phase.loadb else Phase.exit := by
  simp [State.afterByte, State.bytesRemain]

theorem State.bitsRemain_iff (s : State) : s.bitsRemain = true ↔ s.bitcnt - 1#4 ≠ 0#4 := by
  simp [State.bitsRemain]

/-- From a high pin COND leaves the current bit. -/
theorem State.condPin_of_high {s : State} (h : s.pin = true) : s.condPin = s.currentBit := by
  simp [State.condPin, h]

/-- IDX + 1, wrapped or not, is not above LEN when IDX is below it. -/
theorem State.nextIdx_le {s : State} (h : s.idx < s.len) : s.nextIdx ≤ s.len :=
  le_trans (Nat.mod_le _ _) h

/-- The count after a bit that is not the last stays from 1 to 8. -/
theorem bitcnt_pred {b : BitVec 4} (h8 : b.toNat ≤ 8) (h1 : 1 ≤ b.toNat) (h : b - 1#4 ≠ 0#4) :
    1 ≤ (b - 1#4).toNat ∧ (b - 1#4).toNat ≤ 8 := by
  have hne : (b - 1#4).toNat ≠ 0 := fun h0 => h (BitVec.eq_of_toNat_eq h0)
  constructor <;> bv_omega

/-- An instruction that runs where PHASE has brought the machine keeps the invariant. -/
theorem exec_keeps_inv {s t : State} {i : Instr} (hf : s.fetches i) (hx : exec i s = .next t) (hs : s.Inv) : t.Inv := by
  cases exec_executes hx with
  | waits => exact hs
  | transmit n hp => exact (inv_enter rfl).2 ⟨((inv_outside (.inl hp)).1 hs).1, rfl⟩
  | latch hp => exact (inv_outside (.inr rfl)).2 ((inv_outside (.inl hp)).1 hs)
  | enter =>
    obtain ⟨hpin, hidx⟩ := (inv_enter (hf.phase rfl)).1 hs
    by_cases hl : 0 < s.len
    · exact (inv_loadb (by simp [s.afterEnter_eq, hl])).2 ⟨hpin, rfl, by simpa [hidx] using hl⟩
    · exact (inv_exit (by simp [s.afterEnter_eq, hl])).2 ⟨hpin, rfl, by simp [hidx]⟩
  | loadb =>
    obtain ⟨hpin, hie, hlt⟩ := (inv_loadb (hf.phase rfl)).1 hs
    exact (inv_low (.inl rfl)).2 ⟨hpin, hie, by simp, by simp, hlt⟩
  | rise => exact (inv_high (.inl rfl)).2 ⟨rfl, ((inv_low (.inl (hf.phase rfl))).1 hs).2⟩
  | holdb => exact (inv_high (.inr rfl)).2 ((inv_high (.inl (hf.phase rfl))).1 hs)
  | cond =>
    obtain ⟨hpin, hsend⟩ := (inv_high (.inr (hf.phase rfl))).1 hs
    exact (inv_bit (.inl rfl)).2 ⟨State.condPin_of_high hpin, hsend⟩
  | holdd => exact (inv_bit (.inr rfl)).2 ((inv_bit (.inl (hf.phase rfl))).1 hs)
  | fall => exact (inv_low (.inr (.inl rfl))).2 ⟨rfl, ((inv_bit (.inr (hf.phase rfl))).1 hs).2⟩
  | holdf => exact (inv_low (.inr (.inr rfl))).2 ((inv_low (.inr (.inl (hf.phase rfl)))).1 hs)
  | nextBit hb =>
    obtain ⟨hpin, hie, h1, h8, hlt⟩ := (inv_low (.inr (.inr (hf.phase rfl)))).1 hs
    obtain ⟨h1', h8'⟩ := bitcnt_pred h8 h1 (s.bitsRemain_iff.mp hb)
    exact (inv_low (.inl rfl)).2 ⟨hpin, hie, h1', h8', hlt⟩
  | nextByte =>
    obtain ⟨hpin, hie, -, -, hlt⟩ := (inv_low (.inr (.inr (hf.phase rfl)))).1 hs
    by_cases hl : s.nextIdx < s.len
    · exact (inv_loadb (by simp [s.afterByte_eq, hl])).2 ⟨hpin, hie, hl⟩
    · exact (inv_exit (by simp [s.afterByte_eq, hl])).2 ⟨hpin, hie, State.nextIdx_le hlt⟩
  | exit =>
    obtain ⟨hpin, -, hle⟩ := (inv_exit (hf.phase rfl)).1 hs
    exact (inv_outside (.inl rfl)).2 ⟨hpin, hle⟩
  | holdr => exact (inv_outside (.inl rfl)).2 ((inv_outside (.inr (hf.phase rfl))).1 hs)

/-- After every reset the invariant holds. -/
theorem inv_afterReset (c : Cfg) (resets gen : Nat) (h : List HostStep) (p : List Interrupt) (r : List Bool) :
    (State.afterReset c resets gen h p r).Inv :=
  (inv_outside (.inl rfl)).2 ⟨rfl, Nat.le_refl 0⟩

/-- A HostWrite keeps the invariant: in IDLE only the pin and the position count. -/
theorem write_keeps_inv {s t : State} (hp : s.phase = Phase.idle) (hw : HostWrites s t) (hs : s.Inv) : t.Inv := by
  cases hw with
  | ie v =>
    have hp' : (s.writeIe v).phase = Phase.idle := hp
    exact (inv_outside (.inl hp')).2 ((inv_outside (.inl hp)).1 hs)
  | _ => exact hs

/-- Every agent's move keeps the invariant; it does not depend on the inputs or on the time that has passed. -/
theorem inv_keptByMoves : KeptByMoves State.Inv where
  reset _ _ := inv_afterReset ..
  inputs _ _ _ _ hs := hs
  emit _ _ hs := hs
  write _ _ := write_keeps_inv
  instr _ _ _ := exec_keeps_inv

/-- Settles O10: every agent's move keeps the invariant. -/
theorem everyStepKeepsTheInvariant : Obligations.EveryStepKeepsTheInvariant :=
  fun _ _ hs h => inv_keptByMoves.step hs h

/-- Settles O11: the invariant holds after reset and all along the run. -/
theorem reachableStatesMeetR42 : Obligations.ReachableStatesMeetR42 :=
  fun c h p r _ _ hrun => (inv_keptByMoves.run (inv_afterReset c 0 0 h p r) hrun).1

end Sys2Proof.Machine

/-! PROOFS. The ghosts: histories, the record of the observation, the line (O12, O13, O9, O14). -/

namespace Sys2Proof.Machine

/-! Histories, widths and the canonical form. -/

/-- Emission keeps the histories whole and their segments non-empty. -/
theorem tidy_emit {s : State} (k : Nat) (hs : s.Tidy) : (s.emit k).Tidy := by
  obtain ⟨hwidth, ⟨hnow, hnowOe⟩, htr, hoe, hfb⟩ := hs
  exact ⟨hwidth, ⟨by simp [← hnow], by simp [← hnowOe]⟩, Trace.push_no_empty htr _ _, Trace.push_no_empty hoe _ _, hfb⟩

/-- Every instruction leaves LEN and IDX inside their width: they are reduced to it where they are written. -/
theorem exec_widths {i : Instr} {s t : State} (h : exec i s = .next t)
    (hs : s.len < 2 ^ s.cfg.lenBits ∧ s.idx < 2 ^ s.cfg.lenBits) :
    t.len < 2 ^ s.cfg.lenBits ∧ t.idx < 2 ^ s.cfg.lenBits := by
  have hpos := Nat.two_pow_pos s.cfg.lenBits
  cases exec_executes h with
  | transmit n => exact ⟨Nat.mod_lt _ hpos, hpos⟩
  | nextByte => exact ⟨hs.1, Nat.mod_lt _ hpos⟩
  | _ => exact hs

/-- An instruction keeps a state tidy: it only emits, and writes LEN and IDX inside their widths. -/
theorem exec_keeps_tidy {i : Instr} {s t : State} (h : exec i s = .next t) (hs : s.Tidy) : t.Tidy := by
  obtain ⟨hcfg, -, hfb, -⟩ := exec_frame h
  obtain ⟨htr, hoe, hnow⟩ := exec_emits h
  obtain ⟨-, hwhole, hsegs, hoeSegs, hwf⟩ := tidy_emit (s.cfg.cost i) hs
  have hwidth := exec_widths h hs.1
  simp only [State.Tidy, State.historyWhole, hcfg, hfb, htr, hoe, hnow]
  exact ⟨hwidth, hwhole, hsegs, hoeSegs, hwf⟩

/-- A HostWrite of FB leaves the canonical form, and another one leaves what tidiness speaks of. -/
theorem write_keeps_tidy {s t : State} (hw : HostWrites s t) (hs : s.Tidy) : t.Tidy := by
  obtain ⟨hwidth, hwhole, htr, hoe, hfb⟩ := hs
  cases hw with
  | fb bytes => exact ⟨hwidth, hwhole, htr, hoe, Memory.wf_ofBytes _ bytes⟩
  | byte i b => exact ⟨hwidth, hwhole, htr, hoe, State.wf_writeByte i b hfb⟩
  | oe v => exact ⟨hwidth, hwhole, htr, hoe, hfb⟩
  | ie v => exact ⟨hwidth, hwhole, htr, hoe, hfb⟩

theorem write_cfg {s t : State} (hw : HostWrites s t) : t.cfg = s.cfg := by cases hw <;> rfl

/-- After every reset the state is tidy. -/
theorem tidy_afterReset (c : Cfg) (resets gen : Nat) (h : List HostStep) (p : List Interrupt) (r : List Bool) :
    (State.afterReset c resets gen h p r).Tidy :=
  have hpos := Nat.two_pow_pos c.lenBits
  ⟨⟨hpos, hpos⟩, ⟨rfl, rfl⟩, List.forall_mem_nil _, List.forall_mem_nil _, rfl⟩

/-- Every agent's move keeps the state tidy and the configuration as it is. -/
theorem tidy_keptByMoves (c : Cfg) : KeptByMoves fun s => s.Tidy ∧ s.cfg = c where
  reset _ hs := ⟨tidy_afterReset .., hs.2⟩
  inputs _ _ _ _ hs := hs
  emit _ k hs := ⟨tidy_emit k hs.1, hs.2⟩
  write _ _ _ hw hs := ⟨write_keeps_tidy hw hs.1, (write_cfg hw).trans hs.2⟩
  instr _ _ _ _ hx hs := ⟨exec_keeps_tidy hx hs.1, (exec_frame hx).1.trans hs.2⟩

/-- Settles O12: every agent's move keeps the state tidy. -/
theorem everyStepKeepsHistoryAndMemoryTidy : Obligations.EveryStepKeepsHistoryAndMemoryTidy :=
  fun s _ hs h => (tidy_keptByMoves s.cfg).step ⟨hs, rfl⟩ h

/-! The record of the run's observation. -/

/-- After a command or a micro-operation the run is driven, with OE = 1, or lost. -/
theorem lineAgrees_of_use {s t : State} (hl : t.line = s.line.use s.oe) (ho : t.oe = s.oe) : t.lineAgrees := by
  simp only [State.lineAgrees, hl, ho]
  cases s.oe <;> cases s.line <;> trivial

theorem exec_keeps_lineAgrees {i : Instr} {s t : State} (h : exec i s = .next t) (hs : s.lineAgrees) :
    t.lineAgrees := by
  rcases exec_line h with rfl | hl
  · exact hs
  · exact lineAgrees_of_use hl (exec_frame h).2.1

/-- A HostWrite of OE keeps the agreement: a run that is fresh stays so, and one that is driven is lost with OE = 0. -/
theorem write_keeps_lineAgrees {s t : State} (hp : s.phase = Phase.idle) (hw : HostWrites s t) (hs : s.lineAgrees) :
    t.lineAgrees := by
  cases hw with
  | oe v =>
    simp only [State.lineAgrees, State.writeOe_line, State.writeOe_oe, State.writeOe_phase, hp]
    cases v <;> cases s.line <;> trivial
  | _ => exact hs

theorem lineAgrees_keptByMoves : KeptByMoves State.lineAgrees where
  reset _ _ := rfl
  inputs _ _ _ _ hs := hs
  emit _ _ hs := hs
  write _ _ := write_keeps_lineAgrees
  instr _ _ _ _ := exec_keeps_lineAgrees

/-- Settles O13: every agent's move keeps the agreement of the ghost. -/
theorem everyStepKeepsTheLineStatus : Obligations.EveryStepKeepsTheLineStatus :=
  fun _ _ hs h => lineAgrees_keptByMoves.step hs h

/-- Settles O9: IDLE, the pin low, and nothing yet in the histories, LEN, IDX and FB. -/
theorem resetMeetsTheInvariant : Obligations.ResetMeetsTheInvariant :=
  fun c resets gen h p r => ⟨inv_afterReset c resets gen h p r, tidy_afterReset c resets gen h p r, rfl⟩

/-! The line. -/

theorem write_histories {s t : State} (hw : HostWrites s t) :
    t.trace = s.trace ∧ t.oeTrace = s.oeTrace ∧ t.now = s.now := by
  cases hw <;> exact ⟨rfl, rfl, rfl⟩

/-- A step that is no reset appends to the histories one stretch of time, with the pin's level and OE as they were. -/
theorem step_emits {s t : State} (hr : s.rst.head? ≠ some true) (h : step s = .next t) :
    ∃ k, t.trace = s.trace.push s.pin k ∧ t.oeTrace = s.oeTrace.push s.oe k ∧ t.now = s.now + k := by
  rcases step_cases h with ⟨r, hl, -⟩ | ⟨k, rest, -, -, rfl⟩ | ⟨-, -, hh⟩ | ⟨-, -, i, -, hx⟩
  · simp [hl] at hr
  · exact ⟨k, rfl, rfl, rfl⟩
  · obtain ⟨rest, ⟨k, rfl⟩ | hw | ⟨i, -, hx⟩⟩ := hostStep_moves hh
    · exact ⟨k, rfl, rfl, rfl⟩
    · have hsame := write_histories hw
      exact ⟨0, hsame⟩
    · have hcost := exec_emits hx
      exact ⟨_, hcost⟩
  · have hcost := exec_emits hx
    exact ⟨_, hcost⟩

/-- The line after time has passed: the cycles before keep their level, the new ones have PIN's with OE = 1. -/
theorem lineLevel_of_emits {s t : State} {k : Nat} (hs : s.historyWhole) (htr : t.trace = s.trace.push s.pin k)
    (hoe : t.oeTrace = s.oeTrace.push s.oe k) (c : Nat) :
    t.lineLevel c = if c < s.now then s.lineLevel c
      else if c < s.now + k then (if s.oe = true then some s.pin else none) else none := by
  obtain ⟨hnow, hnowOe⟩ := hs
  simp only [State.lineLevel, htr, hoe, Trace.levelAt_push, ← hnow, ← hnowOe]
  by_cases h1 : c < s.now
  · simp [h1]
  · by_cases h2 : c < s.now + k
    · cases ho : s.oe <;> simp [h1, h2]
    · simp [h1, h2]

/-- In a trace of one level every cycle that it has is at that level. -/
theorem levelAt_of_forall {l : Level} {t : Trace} (h : ∀ seg ∈ t, seg.1 = l) {c : Nat} (hc : c < t.total) :
    t.levelAt c = some l := by
  induction t generalizing c with
  | nil => simp at hc
  | cons seg t ih =>
    obtain ⟨m, k⟩ := seg
    obtain ⟨rfl, ht⟩ := List.forall_mem_cons.mp h
    simp only [Trace.total_cons] at hc
    by_cases hk : c < k
    · simp [Trace.levelAt, hk]
    · simp only [Trace.levelAt, hk, if_false]
      exact ih ht (by omega)

/-- With OE = 1 throughout the line is TRACE. -/
theorem lineLevel_of_driven {s : State} (hs : s.historyWhole) (ho : ∀ seg ∈ s.oeTrace, seg.1 = true) (c : Nat) :
    s.lineLevel c = s.trace.levelAt c := by
  obtain ⟨hnow, hnowOe⟩ := hs
  by_cases hc : c < s.now
  · simp [State.lineLevel, levelAt_of_forall ho (hnowOe ▸ hc)]
  · have htr : s.trace.levelAt c = none := Trace.levelAt_none (by omega)
    have hoe : s.oeTrace.levelAt c = none := Trace.levelAt_none (by omega)
    simp [State.lineLevel, htr, hoe]

/-- Settles O14: a step that is no reset appends one stretch of time to both histories, and a reset empties them. -/
theorem lineCarriesThePinWhileDriven : Obligations.LineCarriesThePinWhileDriven := by
  refine ⟨fun s t hs hr h => ?_, fun s t rest hr h c => ?_, fun s hs ho => lineLevel_of_driven hs ho⟩
  · obtain ⟨k, htr, hoe, hnow⟩ := step_emits hr h
    have hline := lineLevel_of_emits hs htr hoe
    refine ⟨fun c hc => ?_, fun c hc hk => ?_, fun c hk => ?_⟩
    · simp [hline, hc]
    · simp [hline, Nat.not_lt.mpr hc, hnow ▸ hk]
    · have hc : ¬ c < s.now := by omega
      simp [hline, hc, Nat.not_lt.mpr (hnow ▸ hk)]
  · cases (step_reset hr).symm.trans h
    rfl

end Sys2Proof.Machine

/-! PROOFS. What a step runs, reset, the Host, who writes what, the table of PHASE (O1, O2, O8, O29, O26, O28). -/

namespace Sys2Proof.Machine

/-- Settles O1: PHASE, or the Host's word in IDLE, says which instruction runs. -/
theorem stepRunsTheDecodedInstruction : Obligations.StepRunsTheDecodedInstruction :=
  ⟨fun s _ hu hb hd => step_operation hu (s.busy_eq_true.mp hb) hd,
    fun _ _ _ _ hu hp hh hd => step_command hu hp hh hd⟩

/-! Placed words. -/

/-- The word of TRANSMIT(N) decodes to it. -/
theorem decodeCommand_encode_transmit {lenBits n : Nat} (h : n < 2 ^ lenBits) :
    decodeCommand lenBits (encode lenBits (.transmit n)) = .instr (.transmit n) := by
  have hlt : 2 ^ lenBits + n < 2 ^ (2 + lenBits) := by rw [Nat.pow_add]; omega
  have hop : cmdOp lenBits (2 ^ lenBits + n) = 1 := by
    simp [cmdOp, Nat.add_div_left, Nat.div_eq_of_lt h]
  have hlen : cmdLen lenBits (2 ^ lenBits + n) = n := by simp [cmdLen, Nat.mod_eq_of_lt h]
  simp [decodeCommand, encode, hlt, hop, hlen]

/-- The word of LATCH decodes to it. -/
theorem decodeCommand_encode_latch (lenBits : Nat) :
    decodeCommand lenBits (encode lenBits .latch) = .instr .latch := by
  have hpos := Nat.two_pow_pos lenBits
  have hlt : 2 * 2 ^ lenBits < 2 ^ (2 + lenBits) := by rw [Nat.pow_add]; omega
  have hop : cmdOp lenBits (2 * 2 ^ lenBits) = 2 := by simp [cmdOp]
  simp [decodeCommand, encode, hlt, hop]

/-- The word of a well-formed command decodes to it. -/
theorem decodeCommand_encode {lenBits : Nat} {i : Instr} (hw : i.wf lenBits = true) (hi : i.format = .cmd) :
    decodeCommand lenBits (encode lenBits i) = .instr i := by
  cases i with
  | transmit n => exact decodeCommand_encode_transmit (by simpa [Instr.wf] using hw)
  | latch => exact decodeCommand_encode_latch lenBits
  | _ => cases hi

/-- The code of a micro-operation decodes to it. -/
theorem decodePhase_encode (lenBits : Nat) {i : Instr} (hi : i.format = .uop) :
    decodePhase (BitVec.ofNat 4 (encode lenBits i)) = .instr i := by
  cases i with
  | transmit n => cases hi
  | latch => cases hi
  | _ => rfl

/-- IDLE is no operation. -/
theorem decodePhase_ne_idle {p : PhaseCode} {i : Instr} (h : decodePhase p = .instr i) : p ≠ Phase.idle := by
  rintro rfl
  cases h

/-- `undisturbed` puts no reset and no request before a state's inputs. -/
theorem State.undisturbed_undisturbedNow (s : State) : s.undisturbed.undisturbedNow := by
  simp [State.undisturbed, State.undisturbedNow]

/-- Settles O2: the code goes into PHASE, or the word before the Host's actions, and decodes to the instruction. -/
theorem placedWordRunsNext : Obligations.PlacedWordRunsNext := by
  refine fun s i hw => ⟨fun hi => ?_, fun hi => ?_⟩
  · have hd := decodePhase_encode s.cfg.lenBits hi
    exact step_operation (State.undisturbed_undisturbedNow _) (decodePhase_ne_idle hd) hd
  · exact step_command (State.undisturbed_undisturbedNow _) rfl rfl (decodeCommand_encode hw hi)

/-! Reset, and the Host in IDLE. -/

/-- Settles O8: R40's values are what `systemReset` writes, and a Host with no action lets time pass. -/
theorem systemResetTakesTheResetState : Obligations.SystemResetTakesTheResetState := by
  refine ⟨fun s rest hr => ?_, ⟨rfl, rfl, rfl, rfl, rfl⟩, fun s hu hp hh => ?_⟩
  · exact ⟨_, step_reset hr, rfl, rfl, rfl, rfl, rfl, rfl⟩
  · exact ⟨_, (step_idle hu hp).trans (hostStep_none _ hh), rfl⟩

/-- A write of FB as a sequence is read back at every index of the buffer. -/
theorem read_writeFb (s : State) (bytes : List Byte) {i : Nat} (hi : i < 2 ^ s.cfg.lenBits) :
    Memory.read (s.writeFb bytes).fb i = bytes[i]? :=
  Memory.read_ofBytes bytes hi

/-- A write of one byte inside the buffer is read back. -/
theorem read_writeByte_same (s : State) {i : Nat} (b : Byte) (hi : i < 2 ^ s.cfg.lenBits) :
    Memory.read (s.writeByte i b).fb i = some b := by
  rw [State.writeByte_fb, fbSize, if_pos hi]
  exact Memory.read_write_same _ _ _

/-- Other bytes keep their value, and all do when the index is outside the buffer. -/
theorem read_writeByte_other (s : State) {i a : Nat} (b : Byte) (h : a ≠ i ∨ 2 ^ s.cfg.lenBits ≤ i) :
    Memory.read (s.writeByte i b).fb a = Memory.read s.fb a := by
  rw [State.writeByte_fb, fbSize]
  split
  · exact Memory.read_write_other _ _ (h.resolve_right (by omega))
  · rfl

/-- The acceptance of a command in IDLE starts it, in no time. -/
theorem exec_command_accepted {s t : State} {i : Instr} (h : exec i s = .next t) (hi : i.format = .cmd)
    (hp : s.phase = Phase.idle) : t.busy = true ∧ t.trace = s.trace ∧ t.now = s.now := by
  cases exec_executes h with
  | waits _ hb => exact absurd hp hb
  | transmit n => exact ⟨rfl, rfl, rfl⟩
  | latch => exact ⟨rfl, rfl, rfl⟩
  | _ => cases hi

/-- While a command is in progress a step that is no reset leaves the Host's actions to come, FB and OE. -/
theorem step_busy_frame {s t : State} (hp : s.phase ≠ Phase.idle) (hr : s.rst.head? ≠ some true)
    (h : step s = .next t) : t.host = s.host ∧ t.fb = s.fb ∧ t.oe = s.oe := by
  rcases step_cases h with ⟨r, hl, -⟩ | ⟨k, rest, -, -, rfl⟩ | ⟨-, hp', -⟩ | ⟨-, -, i, -, hx⟩
  · simp [hl] at hr
  · exact ⟨rfl, rfl, rfl⟩
  · exact absurd hp' hp
  · obtain ⟨-, hoe, hfb, hhost, -⟩ := exec_frame hx
    exact ⟨hhost, hfb, hoe⟩

/-- Settles O29: in IDLE by the equation of each action, elsewhere by the frame of a step. -/
theorem hostActsInIdleOnly : Obligations.HostActsInIdleOnly := by
  refine ⟨fun s rest hu hp => ?_, fun s t hp hr h => step_busy_frame hp hr h⟩
  have hstep := step_idle hu hp
  refine ⟨fun k hh => ?_, fun bytes hh => ?_, fun i b hh => ?_, fun v hh => ?_, fun v hh => ?_, fun w i hh hd => ?_⟩
  · exact hstep.trans (hostStep_idle s.inputsUsed hh)
  · exact ⟨_, hstep.trans (hostStep_writeFb _ hh), fun i hi => read_writeFb _ bytes hi, rfl⟩
  · exact ⟨_, hstep.trans (hostStep_writeByte _ hh), read_writeByte_same _ b, fun _ => read_writeByte_other _ b, rfl⟩
  · exact ⟨_, hstep.trans (hostStep_writeOe _ hh), rfl⟩
  · exact hstep.trans (hostStep_writeIe s.inputsUsed hh)
  · obtain ⟨t, ht⟩ := exec_answers i (s.inputsUsed.setHost rest)
    obtain ⟨-, -, -, hhost, -⟩ := exec_frame ht
    obtain ⟨hbusy, htr, hnow⟩ := exec_command_accepted ht (decodeCommand_isCommand hd) hp
    exact ⟨t, (step_command hu hp hh hd).trans ht, hbusy, htr, hnow, hhost⟩

/-! Who writes which register (10_state.md R21). -/

section
variable {i : Instr} {s t : State}

theorem exec_pin (h : exec i s = .next t) (hrise : i ≠ .rise) (hcond : i ≠ .cond) (hfall : i ≠ .fall) :
    t.pin = s.pin := by
  cases exec_executes h with
  | rise => exact absurd rfl hrise
  | cond => exact absurd rfl hcond
  | fall => exact absurd rfl hfall
  | _ => rfl

theorem exec_ie (h : exec i s = .next t) (henter : i ≠ .enter) (hexit : i ≠ .exit) : t.ie = s.ie := by
  cases exec_executes h with
  | enter => exact absurd rfl henter
  | exit => exact absurd rfl hexit
  | _ => rfl

theorem exec_ieSaved (h : exec i s = .next t) (henter : i ≠ .enter) : t.ieSaved = s.ieSaved := by
  cases exec_executes h with
  | enter => exact absurd rfl henter
  | _ => rfl

theorem exec_shift (h : exec i s = .next t) (hloadb : i ≠ .loadb) (hnext : i ≠ .next) :
    t.shreg = s.shreg ∧ t.bitcnt = s.bitcnt := by
  cases exec_executes h with
  | loadb => exact absurd rfl hloadb
  | nextBit => exact absurd rfl hnext
  | nextByte => exact absurd rfl hnext
  | _ => exact ⟨rfl, rfl⟩

theorem exec_len (h : exec i s = .next t) (htransmit : ∀ n, i ≠ .transmit n) : t.len = s.len := by
  cases exec_executes h with
  | transmit n => exact absurd rfl (htransmit n)
  | _ => rfl

theorem exec_idx (h : exec i s = .next t) (htransmit : ∀ n, i ≠ .transmit n) (hnext : i ≠ .next) : t.idx = s.idx := by
  cases exec_executes h with
  | transmit n => exact absurd rfl (htransmit n)
  | nextByte => exact absurd rfl hnext
  | _ => rfl

end

/-- Settles O26: the common frame, and each register by its writers. -/
theorem instructionsWriteOnlyTheirRegisters : Obligations.InstructionsWriteOnlyTheirRegisters := by
  intro i s t h
  obtain ⟨hcfg, hoe, hfb, hhost, hpre, hrst, hresets, hgen⟩ := exec_frame h
  exact ⟨fun a => by rw [hfb], State.fbByte_congr hfb hgen, hcfg, hoe, hhost, hpre, hrst, hresets, hgen,
    exec_pin h, exec_ie h, exec_ieSaved h, exec_shift h, exec_len h, exec_idx h⟩

/-! The table of successors (10_state.md R22). -/

/-- The step that an undisturbed state makes is the operation of the code that PHASE holds. -/
theorem exec_of_step {s t : State} (hu : s.undisturbedNow) (h : step s = .next t) (i : Instr) {c : PhaseCode}
    (hc : s.phase = c) (hd : decodePhase c = .instr i) : exec i s.inputsUsed = .next t := by
  subst hc
  exact (step_operation hu (decodePhase_ne_idle hd) hd).symm.trans h

/-- A code that is an operation is legal. -/
theorem legal_of_decode {p : PhaseCode} {i : Instr} (h : decodePhase p = .instr i) : p.toNat ≤ 11 := by
  obtain ⟨hi, rfl⟩ := phase_of_decode 0 h
  cases i with
  | transmit n => cases hi
  | latch => cases hi
  | _ => simp [encode]

/-- An instruction never writes one of the codes 12 to 15 to PHASE. -/
theorem exec_legal {s t : State} {i : Instr} (hs : s.phase.toNat ≤ 11) (h : exec i s = .next t) :
    t.phase.toNat ≤ 11 := by
  cases exec_executes h with
  | waits => exact hs
  | enter => rw [State.goto_phase, s.afterEnter_eq]; split <;> decide
  | nextByte => rw [State.goto_phase, s.afterByte_eq]; split <;> decide
  | _ => simp

/-- An undisturbed step of a command in progress leaves PHASE at a legal code. -/
theorem step_busy_legal {s t : State} (hu : s.undisturbedNow) (hp : s.phase ≠ Phase.idle) (h : step s = .next t) :
    t.phase.toNat ≤ 11 := by
  rw [step_undisturbed hu] at h
  rcases runStep_cases h with ⟨hp', -⟩ | ⟨-, he⟩
  · exact absurd hp' hp
  · obtain ⟨i, hd, hx⟩ := encoderStep_cases he
    exact exec_legal (legal_of_decode hd) hx

/-- Where NEXT leads. -/
theorem exec_next_phase {s t : State} (h : exec .next s = .next t) :
    t.phase = if s.bitcnt - 1#4 ≠ 0#4 then Phase.rise else s.afterByte := by
  cases exec_executes h with
  | waits hi => cases hi
  | nextBit hb => exact (if_pos (s.bitsRemain_iff.mp hb)).symm
  | nextByte hb => exact (if_neg fun hne => Bool.eq_false_iff.mp hb (s.bitsRemain_iff.mpr hne)).symm

/-- Settles O28: each code's operation has the cost and the successor of the table. -/
theorem phaseFollowsTheSuccessorTable : Obligations.PhaseFollowsTheSuccessorTable := by
  refine ⟨rfl, fun s t hp => ⟨fun n h => ?_, fun h => ?_⟩, fun s t hu hp h => ?_⟩
  · cases (exec_transmit_idle hp n).symm.trans h
    rfl
  · cases (exec_latch_idle hp).symm.trans h
    rfl
  have hrun := @exec_of_step s t hu h
  refine ⟨step_busy_legal hu hp h, fun hc => ?enter, fun hc => ?loadb, fun hc => ?rise, fun hc => ?holdb,
    fun hc => ?cond, fun hc => ?holdd, fun hc => ?fall, fun hc => ?holdf, fun hc => ?next, fun hc => ?exit,
    fun hc => ?holdr⟩
  case enter => cases hrun .enter hc rfl; exact ⟨rfl, s.afterEnter_eq⟩
  case loadb => cases hrun .loadb hc rfl; exact ⟨rfl, rfl⟩
  case rise => cases hrun .rise hc rfl; exact ⟨rfl, rfl⟩
  case holdb => cases hrun .holdb hc rfl; exact ⟨rfl, rfl⟩
  case cond => cases hrun .cond hc rfl; exact ⟨rfl, rfl⟩
  case holdd => cases hrun .holdd hc rfl; exact ⟨rfl, rfl⟩
  case fall => cases hrun .fall hc rfl; exact ⟨rfl, rfl⟩
  case holdf => cases hrun .holdf hc rfl; exact ⟨rfl, rfl⟩
  case next =>
    have hx := hrun .next hc rfl
    refine ⟨(exec_emits hx).2.2, (exec_next_phase hx).trans ?_⟩
    rw [State.afterByte_eq]
    rfl
  case exit => cases hrun .exit hc rfl; exact ⟨rfl, rfl⟩
  case holdr => cases hrun .holdr hc rfl; exact ⟨rfl, rfl⟩

end Sys2Proof.Machine

/-! PROOFS. No run reads a register before it is written, 10_state.md R43 (O16). -/

namespace Sys2Proof.Machine

/-- Values for the five registers that reset leaves unspecified (10_state.md R40). -/
structure Unreset where
  len : Nat
  idx : Nat
  bitcnt : BitVec 4
  shreg : Byte
  ieSaved : Bool

/-- The state with these values in the five registers. -/
def State.withRegs (s : State) (d : Unreset) : State :=
  { s with len := d.len, idx := d.idx, bitcnt := d.bitcnt, shreg := d.shreg, ieSaved := d.ieSaved }

/-- The values are the state's own wherever PHASE is where the register is live (R43): LEN and IDX from ENTER to NEXT,
SHREG and BITCNT from RISE to NEXT, IE_SAVED from LOADB to EXIT. -/
def State.agreesLive (s : State) (d : Unreset) : Prop :=
  (1 ≤ s.phase.toNat ∧ s.phase.toNat ≤ 9 → d.len = s.len ∧ d.idx = s.idx) ∧
  (3 ≤ s.phase.toNat ∧ s.phase.toNat ≤ 9 → d.shreg = s.shreg ∧ d.bitcnt = s.bitcnt) ∧
  (2 ≤ s.phase.toNat ∧ s.phase.toNat ≤ 10 → d.ieSaved = s.ieSaved)

/-- Outside a TRANSMIT no register is live. -/
theorem agreesLive_outside {s : State} (hp : s.phase = Phase.idle ∨ s.phase = Phase.holdr) (d : Unreset) :
    s.agreesLive d := by
  rcases hp with hp | hp <;> simp [State.agreesLive, hp]

theorem agreesLive_enter {s : State} (hp : s.phase = Phase.enter) {d : Unreset} :
    s.agreesLive d ↔ d.len = s.len ∧ d.idx = s.idx := by
  simp [State.agreesLive, hp]

theorem agreesLive_loadb {s : State} (hp : s.phase = Phase.loadb) {d : Unreset} :
    s.agreesLive d ↔ (d.len = s.len ∧ d.idx = s.idx) ∧ d.ieSaved = s.ieSaved := by
  simp [State.agreesLive, hp]

theorem agreesLive_exit {s : State} (hp : s.phase = Phase.exit) {d : Unreset} :
    s.agreesLive d ↔ d.ieSaved = s.ieSaved := by
  simp [State.agreesLive, hp]

/-- The state's own values of the five registers. -/
def State.regs (s : State) : Unreset := ⟨s.len, s.idx, s.bitcnt, s.shreg, s.ieSaved⟩

theorem State.agreesLive_regs (s : State) : s.agreesLive s.regs :=
  ⟨fun _ => ⟨rfl, rfl⟩, fun _ => ⟨rfl, rfl⟩, fun _ => rfl⟩

/-- From RISE to NEXT all five are live: only the state's own values agree. -/
theorem withRegs_sending {s : State} (h3 : 3 ≤ s.phase.toNat) (h9 : s.phase.toNat ≤ 9) {d : Unreset}
    (hd : s.agreesLive d) : s.withRegs d = s := by
  obtain ⟨hpos, hshift, hie⟩ := hd
  obtain ⟨hlen, hidx⟩ := hpos ⟨by omega, h9⟩
  obtain ⟨hshreg, hbitcnt⟩ := hshift ⟨h3, h9⟩
  simp only [State.withRegs, hlen, hidx, hshreg, hbitcnt, hie ⟨by omega, by omega⟩]

/-- Where ENTER leads depends on LEN alone, which is live there. -/
theorem afterEnter_withRegs {s : State} {d : Unreset} (h : d.len = s.len) :
    (s.withRegs d).afterEnter = s.afterEnter := by
  simp [State.afterEnter_eq, State.withRegs, h]

/-- ENTER writes IE_SAVED and reads LEN only. -/
theorem exec_enter_withRegs {s : State} {d : Unreset} (hp : s.phase = Phase.enter) (hd : s.agreesLive d) :
    ∃ d', ((s.spend s.cfg.cEnter).acquire.goto s.afterEnter).agreesLive d' ∧
      exec .enter (s.withRegs d) = .next (((s.spend s.cfg.cEnter).acquire.goto s.afterEnter).withRegs d') := by
  obtain ⟨hlen, hidx⟩ := (agreesLive_enter hp).1 hd
  refine ⟨{ d with ieSaved := s.ie }, ?_, ?_⟩
  · by_cases hl : 0 < s.len
    · exact (agreesLive_loadb (by simp [s.afterEnter_eq, hl])).2 ⟨⟨hlen, hidx⟩, rfl⟩
    · exact (agreesLive_exit (by simp [s.afterEnter_eq, hl])).2 rfl
  · rw [exec_enter, afterEnter_withRegs hlen]
    rfl

/-- LOADB writes SHREG and BITCNT and reads IDX only; after it all five registers are as they would have been. -/
theorem exec_loadb_withRegs {s : State} {d : Unreset} (hp : s.phase = Phase.loadb) (hd : s.agreesLive d) :
    exec .loadb (s.withRegs d) = exec .loadb s := by
  obtain ⟨⟨hlen, hidx⟩, hie⟩ := (agreesLive_loadb hp).1 hd
  cases d
  cases hlen; cases hidx; cases hie
  rfl

/-- An instruction that runs where PHASE has brought the machine reads no register that is dead there, and leaves the
registers that are live then as they would have been (R43). -/
theorem exec_withRegs {s t : State} {i : Instr} {d : Unreset} (h : exec i s = .next t) (hf : s.fetches i)
    (hd : s.agreesLive d) : ∃ d', t.agreesLive d' ∧ exec i (s.withRegs d) = .next (t.withRegs d') := by
  cases exec_executes h with
  | waits hi hb => exact ⟨d, hd, exec_command_busy hi hb⟩
  | transmit n hp =>
    have hp' : (s.withRegs d).phase = Phase.idle := hp
    exact ⟨{ d with len := n % 2 ^ s.cfg.lenBits, idx := 0 }, (agreesLive_enter rfl).2 ⟨rfl, rfl⟩,
      exec_transmit_idle hp' n⟩
  | latch hp => exact ⟨d, agreesLive_outside (.inr rfl) d, exec_latch_idle hp⟩
  | enter => exact exec_enter_withRegs (hf.phase rfl) hd
  | loadb => exact ⟨_, State.agreesLive_regs _, exec_loadb_withRegs (hf.phase rfl) hd⟩
  | exit =>
    have hie := (agreesLive_exit (hf.phase rfl)).1 hd
    refine ⟨d, agreesLive_outside (.inl rfl) d, ?_⟩
    cases d; cases hie; rfl
  | holdr => exact ⟨d, agreesLive_outside (.inl rfl) d, rfl⟩
  | rise | holdb | cond | holdd | fall | holdf | nextBit | nextByte =>
    have hp := hf.phase rfl
    have hsame := withRegs_sending (by rw [hp]; decide) (by rw [hp]; decide) hd
    exact ⟨_, State.agreesLive_regs _, hsame.symm ▸ h⟩

/-- The Host's step in IDLE reads none of the five registers. -/
theorem hostStep_withRegs {s t : State} (d : Unreset) (h : hostStep s = .next t) (hp : s.phase = Phase.idle) :
    ∃ d', t.agreesLive d' ∧ hostStep (s.withRegs d) = .next (t.withRegs d') := by
  have hd : s.agreesLive d := agreesLive_outside (.inl hp) d
  rcases hostStep_cases h with ⟨hh, rfl⟩ | ⟨w, rest, i, hh, hdec, hx⟩ | ⟨k, rest, hh, rfl⟩ | ⟨bytes, rest, hh, rfl⟩ |
    ⟨i, b, rest, hh, rfl⟩ | ⟨v, rest, hh, rfl⟩ | ⟨v, rest, hh, rfl⟩
  · exact ⟨d, hd, hostStep_none _ hh⟩
  · obtain ⟨d', hd', hx'⟩ := exec_withRegs hx (.inr ⟨hp, decodeCommand_isCommand hdec⟩) hd
    exact ⟨d', hd', (hostStep_command (s.withRegs d) hh hdec).trans hx'⟩
  · exact ⟨d, hd, hostStep_idle _ hh⟩
  · exact ⟨d, hd, hostStep_writeFb _ hh⟩
  · exact ⟨d, hd, hostStep_writeByte _ hh⟩
  · exact ⟨d, hd, hostStep_writeOe _ hh⟩
  · exact ⟨d, hd, hostStep_writeIe _ hh⟩

/-- A step from a state with other values in dead registers is the same step. -/
theorem step_withRegs {s t : State} {d : Unreset} (hd : s.agreesLive d) (h : step s = .next t) :
    ∃ d', t.agreesLive d' ∧ step (s.withRegs d) = .next (t.withRegs d') := by
  rcases step_cases h with ⟨r, hl, rfl⟩ | ⟨k, rest, hr, hserved, rfl⟩ | ⟨hu, hp, hh⟩ | ⟨hu, hp, i, hdec, hx⟩
  · exact ⟨_, State.agreesLive_regs _, step_reset hl⟩
  · have hr' : (s.withRegs d).rst.head? ≠ some true := hr
    exact ⟨d, hd, step_served hr' hserved⟩
  · have hu' : (s.withRegs d).undisturbedNow := hu
    obtain ⟨d', hd', hh'⟩ := hostStep_withRegs d hh hp
    exact ⟨d', hd', (step_idle hu' hp).trans hh'⟩
  · have hu' : (s.withRegs d).undisturbedNow := hu
    obtain ⟨d', hd', hx'⟩ := exec_withRegs hx (.inl hdec) hd
    exact ⟨d', hd', (step_operation hu' hp hdec).trans hx'⟩

/-- So is a run. -/
theorem runSteps_withRegs {n : Nat} {s t : State} {d : Unreset} (hd : s.agreesLive d) (h : runSteps n s = .next t) :
    ∃ d', t.agreesLive d' ∧ runSteps n (s.withRegs d) = .next (t.withRegs d') := by
  induction n generalizing s d with
  | zero => cases h; exact ⟨d, hd, rfl⟩
  | succ n ih =>
    obtain ⟨u, hu, hr⟩ := runSteps_succ_iff.mp h
    obtain ⟨d', hd', hu'⟩ := step_withRegs hd hu
    obtain ⟨d'', hd'', hr'⟩ := ih hd' hr
    exact ⟨d'', hd'', runSteps_succ_iff.mpr ⟨_, hu', hr'⟩⟩

/-- Settles O16: in IDLE none of the five registers is live, so the run with other values is the same run. -/
theorem registersAreWrittenBeforeTheyAreRead : Obligations.RegistersAreWrittenBeforeTheyAreRead := by
  intro c resets gen h p r len idx bitcnt shreg ieSaved n t hrun
  obtain ⟨d, hd, hrun'⟩ := runSteps_withRegs (agreesLive_outside (.inl rfl) ⟨len, idx, bitcnt, shreg, ieSaved⟩) hrun
  exact ⟨t.withRegs d, hrun', rfl, hd⟩

end Sys2Proof.Machine

/-! PROOFS. The order of the wire: bits of bytes, bytes of pixels, cells of bits, 20_memory.md R56 and R62 (O35). -/

namespace Sys2Proof.Machine

/-- Where every element gives a piece of `n` places, place `n * q + r` is place `r` of the piece of element `q`. -/
theorem getElem?_flatMap_uniform {α β : Type} {f : α → List β} {n r : Nat} (hf : ∀ a, (f a).length = n) (hr : r < n)
    (l : List α) (q : Nat) : (l.flatMap f)[n * q + r]? = l[q]?.bind fun a => (f a)[r]? := by
  induction l generalizing q with
  | nil => rfl
  | cons a l ih =>
    rw [List.flatMap_cons]
    cases q with
    | zero => simp [List.getElem?_append_left, hf, hr]
    | succ q =>
      have hsub : n * (q + 1) + r - n = n * q + r := by rw [Nat.mul_succ]; omega
      rw [List.getElem?_append_right (by rw [hf, Nat.mul_succ]; omega), hf, hsub, ih, List.getElem?_cons_succ]

/-! Bits of bytes (R56) and bytes of pixels (R62). -/

@[simp] theorem length_bitsOf (b : Byte) : (bitsOf b).length = 8 := rfl

@[simp] theorem length_pixelBytes (p : Rgb) : (pixelBytes p).length = 3 := rfl

@[simp] theorem length_bitsOfBytes (bytes : List Byte) : (bitsOfBytes bytes).length = 8 * bytes.length := by
  simp [bitsOfBytes, List.length_flatMap, Nat.mul_comm]

/-- The most significant bit goes first. -/
theorem getElem?_bitsOf (b : Byte) {r : Nat} (hr : r < 8) : (bitsOf b)[r]? = some (b.getLsbD (7 - r)) := by
  interval_cases r <;> rfl

theorem getElem?_bitsOfBytes (bytes : List Byte) (k : Nat) :
    (bitsOfBytes bytes)[k]? = bytes[k / 8]?.map fun b => b.getLsbD (7 - k % 8) := by
  have hr : k % 8 < 8 := Nat.mod_lt k (by decide)
  have hbit := getElem?_flatMap_uniform length_bitsOf hr bytes (k / 8)
  rw [Nat.div_add_mod] at hbit
  simp only [getElem?_bitsOf _ hr] at hbit
  exact hbit.trans (Option.map_eq_bind ..).symm

/-- Byte `r` of pixel `k` in a frame: green, red, blue. -/
theorem getElem?_frameBytes (pixels : List Rgb) (k : Nat) {r : Nat} (hr : r < 3) :
    (frameBytes pixels)[3 * k + r]? = pixels[k]?.bind fun p => (pixelBytes p)[r]? :=
  getElem?_flatMap_uniform length_pixelBytes hr pixels k

/-! Cells of bits (30_encoding.md R71, 40_transmit.md R112). -/

/-- Lead and high fit in a cell: no subtraction in the tail of CellTrace truncates. -/
theorem cRise_add_th_le_tcell (c : Cfg) (b : Bool) : c.cRise + c.th b ≤ c.tcell := by
  cases b <;> simp only [Cfg.th, Cfg.th0, Cfg.th1, Cfg.tcell, if_true, Bool.false_eq_true, if_false] <;> omega

@[simp] theorem total_cellTrace (c : Cfg) (b : Bool) : Trace.total (cellTrace c b) = c.tcell := by
  have hle := cRise_add_th_le_tcell c b
  simp only [cellTrace, Trace.total_cons, Trace.total_nil]
  omega

/-- CellTrace has the levels of R71. -/
theorem levelAt_cellTrace (c : Cfg) (b : Bool) (o : Nat) : Trace.levelAt (cellTrace c b) o = cellLevel c b o := by
  have hle := cRise_add_th_le_tcell c b
  simp only [cellTrace, Trace.levelAt, cellLevel]
  by_cases hlead : o < c.cRise
  · simp only [hlead, if_true]
  have hhigh : o - c.cRise < c.th b ↔ o < c.cRise + c.th b := by omega
  by_cases hin : o < c.cRise + c.th b
  · simp only [hlead, hhigh, hin, if_true, if_false]
  have htail : o - c.cRise - c.th b < c.tcell - c.cRise - c.th b ↔ o < c.tcell := by omega
  simp only [hlead, hhigh, hin, htail, if_false]

/-- Cell `k` of a row of cells, whatever follows the row, carries bit `k`. -/
theorem levelAt_cells {c : Cfg} {bits : List Bool} {k o : Nat} (hk : k < bits.length) (ho : o < c.tcell) (u : Trace) :
    Trace.levelAt (bits.flatMap (cellTrace c) ++ u) (k * c.tcell + o) = bits[k]?.bind fun b => cellLevel c b o := by
  induction bits generalizing k with
  | nil => cases hk
  | cons b bits ih =>
    rw [List.flatMap_cons, List.append_assoc, Trace.levelAt_append, total_cellTrace]
    cases k with
    | zero => simp [ho, levelAt_cellTrace]
    | succ k =>
      have hpast : ¬ (k + 1) * c.tcell + o < c.tcell := by rw [Nat.succ_mul]; omega
      have hsub : (k + 1) * c.tcell + o - c.tcell = k * c.tcell + o := by rw [Nat.succ_mul]; omega
      rw [if_neg hpast, hsub, ih (Nat.lt_of_succ_lt_succ hk), List.getElem?_cons_succ]

/-- In a TRANSMIT's waveform the cells begin after the cycles of ENTER. -/
theorem levelAt_transmitTrace (c : Cfg) (bytes : List Byte) {k o : Nat} (hk : k < 8 * bytes.length) (ho : o < c.tcell) :
    Trace.levelAt (transmitTrace c bytes) (c.cEnter + k * c.tcell + o) =
      (bitsOfBytes bytes)[k]?.bind fun b => cellLevel c b o := by
  have hpast : ¬ c.cEnter + k * c.tcell + o < c.cEnter := by omega
  have hsub : c.cEnter + k * c.tcell + o - c.cEnter = k * c.tcell + o := by omega
  rw [transmitTrace, Trace.levelAt, if_neg hpast, hsub]
  exact levelAt_cells ((length_bitsOfBytes bytes).symm ▸ hk) ho _

/-- Settles O35: bytes and pixels give pieces of 8 bits and 3 bytes, and the waveform has a cell for each bit in turn. -/
theorem bitsGoOutInTheOrderOfTheWire : Obligations.BitsGoOutInTheOrderOfTheWire := by
  refine ⟨getElem?_bitsOfBytes, fun pixels k => ⟨?green, ?red, ?blue⟩, fun c bytes k o => levelAt_transmitTrace c bytes⟩
  case green => exact (getElem?_frameBytes pixels k (r := 0) (by decide)).trans (Option.map_eq_bind ..).symm
  case red => exact (getElem?_frameBytes pixels k (r := 1) (by decide)).trans (Option.map_eq_bind ..).symm
  case blue => exact (getElem?_frameBytes pixels k (r := 2) (by decide)).trans (Option.map_eq_bind ..).symm

end Sys2Proof.Machine

/-! SUPPORT. Emission seen from the end of the runs, and what every step leaves of the premises. -/

namespace Sys2Proof.Machine

/-! Emission as an append of one segment to the runs (00_scope.md R10). -/

/-- Put one segment behind a list of runs: the mirror of `consRun`. `runs_push_snoc` ties it to emission. -/
def snocRun (r : Trace) (seg : Segment) : Trace := (consRun seg r.reverse).reverse

@[simp] theorem snocRun_zero (r : Trace) (l : Level) : snocRun r (l, 0) = r := by simp [snocRun]

theorem snocRun_concat (q : Trace) (m : Level) (c : Nat) (l : Level) {k : Nat} (hk : k ≠ 0) :
    snocRun (q ++ [(m, c)]) (l, k) = if l = m then q ++ [(m, c + k)] else q ++ [(m, c), (l, k)] := by
  by_cases hl : l = m <;> simp [snocRun, consRun, hk, hl, Nat.add_comm]

/-- A segment before and one behind: the order in which they are put makes no difference. -/
theorem consRun_snocRun (a : Segment) (r : Trace) (seg : Segment) :
    consRun a (snocRun r seg) = snocRun (consRun a r) seg := by
  obtain ⟨l, k⟩ := a
  obtain ⟨m, j⟩ := seg
  by_cases hk : k = 0
  · simp [hk]
  by_cases hj : j = 0
  · simp [hj]
  match r with
  | [] => by_cases hl : l = m <;> simp [snocRun, consRun, hk, hj, hl, Ne.symm, Nat.add_comm]
  | (n, c) :: rest =>
    rcases rest.eq_nil_or_concat with rfl | ⟨q, ⟨n', c'⟩, rfl⟩
    · by_cases hl : l = n <;> by_cases hn : m = n <;> simp [snocRun, consRun, hk, hj, hl, hn, Nat.add_left_comm]
    · by_cases hl : l = n <;> by_cases hn : m = n' <;> simp [snocRun, consRun, hk, hj, hl, hn]

theorem runs_append_singleton (t : Trace) (seg : Segment) : runs (t ++ [seg]) = snocRun (runs t) seg := by
  induction t with
  | nil => cases seg; simp [runs, snocRun, consRun]; split <;> simp
  | cons a t ih => rw [List.cons_append, runs_cons, ih, consRun_snocRun, runs_cons]

/-- Emission puts a segment behind the runs. -/
theorem runs_push_snoc (t : Trace) (l : Level) (k : Nat) : runs (t.push l k) = snocRun (runs t) (l, k) := by
  rw [runs_push, runs_append_singleton]

/-- Two segments of one level are one. -/
theorem snocRun_merge (r : Trace) (l : Level) (a b : Nat) :
    snocRun (snocRun r (l, a)) (l, b) = snocRun r (l, a + b) := by
  rw [snocRun, snocRun, List.reverse_reverse, consRun_merge, Nat.add_comm, snocRun]

@[simp] theorem highRuns_append (r q : Trace) : highRuns (r ++ q) = highRuns r ++ highRuns q := by
  induction r with
  | nil => rfl
  | cons run r ih => obtain ⟨_ | _, c⟩ := run <;> simp [highRuns, ih]

/-- A low segment behind the runs leaves the lengths of the high ones. -/
theorem highRuns_snocRun_low (r : Trace) (k : Nat) : highRuns (snocRun r (false, k)) = highRuns r := by
  by_cases hk : k = 0
  · simp [hk]
  rcases r.eq_nil_or_concat with rfl | ⟨q, ⟨m, c⟩, rfl⟩
  · simp [snocRun, consRun, highRuns, hk]
  · cases m <;> simp [snocRun_concat _ _ _ _ hk, highRuns]

/-- The last run, if there is one, is not high. -/
def endsNotHigh (r : Trace) : Prop := ∀ h, r.getLast? ≠ some (true, h)

/-- After a low segment that is not empty the last run is low. -/
theorem endsNotHigh_snocRun_low (r : Trace) {k : Nat} (hk : k ≠ 0) : endsNotHigh (snocRun r (false, k)) := by
  intro h
  rcases r.eq_nil_or_concat with rfl | ⟨q, ⟨m, c⟩, rfl⟩
  · simp [snocRun, consRun, hk]
  · cases m <;> simp [snocRun_concat _ _ _ _ hk]

/-- Behind a run that is not high a high segment is a run of its own. -/
theorem snocRun_high {r : Trace} (hr : endsNotHigh r) {k : Nat} (hk : k ≠ 0) :
    snocRun r (true, k) = r ++ [(true, k)] := by
  rcases r.eq_nil_or_concat with rfl | ⟨q, ⟨m, c⟩, rfl⟩
  · simp [snocRun, consRun, hk]
  · cases m
    · simp [snocRun_concat _ _ _ _ hk]
    · exact absurd (by simp) (hr c)

/-! What every step leaves of the premises. -/

theorem cfg_keptByMoves (c : Cfg) : KeptByMoves fun s => s.cfg = c where
  reset _ hs := hs
  inputs _ _ _ _ hs := hs
  emit _ _ hs := hs
  write _ _ _ hw hs := (write_cfg hw).trans hs
  instr _ _ _ _ hx hs := (exec_frame hx).1.trans hs

theorem State.inputsUsed_preemptor_suffix (s : State) : s.inputsUsed.preemptor <:+ s.preemptor := by
  rcases hp : s.preemptor with _ | ⟨x, rest⟩
  · simp [State.inputsUsed, hp]
  · cases x <;> simp [State.inputsUsed, hp]

theorem write_preemptor {s t : State} (hw : HostWrites s t) : t.preemptor = s.preemptor := by cases hw <;> rfl

/-- A step uses up requests from the front of the Preemptor's list only. -/
theorem step_preemptor_suffix {s t : State} (h : step s = .next t) : t.preemptor <:+ s.preemptor := by
  rcases step_cases h with ⟨r, -, rfl⟩ | ⟨k, rest, -, ⟨hp, -⟩ | hp, rfl⟩ | ⟨-, -, hh⟩ | ⟨-, -, i, -, hx⟩
  · exact List.suffix_refl _
  · simp [hp]
  · simp [hp]
  · have hused := s.inputsUsed_preemptor_suffix
    obtain ⟨rest, ⟨k, rfl⟩ | hw | ⟨i, -, hx⟩⟩ := hostStep_moves hh
    · exact hused
    · rw [write_preemptor hw]; exact hused
    · obtain ⟨-, -, -, -, hpre, -⟩ := exec_frame hx
      rw [hpre]; exact hused
  · obtain ⟨-, -, -, -, hpre, -⟩ := exec_frame hx
    rw [hpre]; exact s.inputsUsed_preemptor_suffix

/-- No step brings a source that ignores IE. -/
theorem step_noUnmaskable {s t : State} (hs : s.P_NoUnmaskable) (h : step s = .next t) : t.P_NoUnmaskable :=
  fun k hk => hs k ((step_preemptor_suffix h).subset hk)

end Sys2Proof.Machine

/-! PROOFS. Which high runs reach the line, 30_encoding.md R77 (O44). -/

namespace Sys2Proof.Machine

/-! Runs of which every high one is a symbol. -/

/-- Every high run is a symbol and none can grow, if at least `ahead` more low cycles come before the next high one. -/
def settled (c : Cfg) (ahead : Nat) (r : Trace) : Prop :=
  (∀ x ∈ highRuns r, x = c.th0 ∨ x = c.th1) ∧ (endsNotHigh r ∨ 1 ≤ ahead)

/-- Every high run is a symbol but for one at the end that has been high for `x` cycles. -/
def opened (c : Cfg) (x : Nat) (r : Trace) : Prop := ∃ q, settled c 0 q ∧ r = snocRun q (true, x)

section
variable {c : Cfg} {r : Trace}

theorem settled_nil (ahead : Nat) : settled c ahead [] := ⟨by simp [highRuns], .inl (by simp [endsNotHigh])⟩

/-- Low cycles that come are no longer ahead. -/
theorem settled.low {ahead ahead' k : Nat} (hr : settled c ahead r) (hk : ahead ≤ k + ahead') :
    settled c ahead' (snocRun r (false, k)) := by
  obtain ⟨hsym, hend⟩ := hr
  refine ⟨by rwa [highRuns_snocRun_low], ?_⟩
  by_cases h0 : k = 0
  · subst h0
    exact (snocRun_zero r false).symm ▸ hend.imp_right (by omega)
  · exact .inl (endsNotHigh_snocRun_low r h0)

theorem settled.opened (hr : settled c 0 r) : opened c 0 r := ⟨r, hr, (snocRun_zero r true).symm⟩

theorem opened.high {x : Nat} (hr : opened c x r) (k : Nat) : opened c (x + k) (snocRun r (true, k)) := by
  obtain ⟨q, hq, rfl⟩ := hr
  exact ⟨q, hq, snocRun_merge q true x k⟩

/-- A high run that has lasted as long as a symbol is one, when a low cycle comes next. -/
theorem opened.settled {b : Bool} (hr : opened c (c.th b) r) {ahead : Nat} (hpos : 1 ≤ ahead) : settled c ahead r := by
  obtain ⟨q, ⟨hsym, hend⟩, rfl⟩ := hr
  refine ⟨?_, .inr hpos⟩
  by_cases h0 : c.th b = 0
  · rwa [h0, snocRun_zero]
  · rw [snocRun_high (hend.resolve_right (by decide)) h0, highRuns_append]
    intro x hx
    rcases List.mem_append.mp hx with hx | hx
    · exact hsym x hx
    · rw [List.mem_singleton.mp hx]
      cases b
      · exact .inl rfl
      · exact .inr rfl

end

/-! The trace in each PHASE. -/

/-- The low cycles that are sure to come before the pin can next rise, with the pin low now. -/
def State.lowAhead (s : State) : Nat :=
  if s.phase = Phase.holdd then s.cfg.delta + (s.cfg.cFall + s.cfg.tl1)
  else if s.phase = Phase.fall then s.cfg.cFall + s.cfg.tl1
  else if s.phase = Phase.holdf then s.cfg.tl1
  else if s.phase = Phase.next then s.cfg.cRise + s.cfg.cLoop
  else s.cfg.cRise

/-- The cycles for which the pin has been high, with the pin high now. -/
def State.highSoFar (s : State) : Nat :=
  if s.phase = Phase.cond then s.cfg.base
  else if s.phase = Phase.holdd then s.cfg.base + s.cfg.cCond
  else if s.phase = Phase.fall then s.cfg.base + s.cfg.cCond + s.cfg.delta
  else 0

/-- The high runs on the line are symbols, but for the one in progress. -/
def State.lineShape (s : State) : Prop :=
  if s.pin = true then opened s.cfg s.highSoFar (runs s.trace) else settled s.cfg s.lowAhead (runs s.trace)

theorem lineShape_low {s : State} (hp : s.pin = false) : s.lineShape ↔ settled s.cfg s.lowAhead (runs s.trace) := by
  simp [State.lineShape, hp]

theorem lineShape_high {s : State} (hp : s.pin = true) : s.lineShape ↔ opened s.cfg s.highSoFar (runs s.trace) := by
  simp [State.lineShape, hp]

section
variable {s t : State} {k : Nat} (hs : s.lineShape) (hcfg : t.cfg = s.cfg) (htr : t.trace = s.trace.push s.pin k)
include hs hcfg htr

theorem lineShape_stays_low (hp : s.pin = false) (hp' : t.pin = false) (hahead : s.lowAhead ≤ k + t.lowAhead) :
    t.lineShape := by
  rw [lineShape_low hp', hcfg, htr, hp, runs_push_snoc]
  exact ((lineShape_low hp).1 hs).low hahead

theorem lineShape_rises (hp : s.pin = false) (hp' : t.pin = true) (hahead : s.lowAhead ≤ k) (hfar : t.highSoFar = 0) :
    t.lineShape := by
  rw [lineShape_high hp', hcfg, htr, hp, runs_push_snoc, hfar]
  exact (((lineShape_low hp).1 hs).low hahead).opened

theorem lineShape_stays_high (hp : s.pin = true) (hp' : t.pin = true) (hfar : t.highSoFar = s.highSoFar + k) :
    t.lineShape := by
  rw [lineShape_high hp', hcfg, htr, hp, runs_push_snoc, hfar]
  exact ((lineShape_high hp).1 hs).high k

theorem lineShape_falls (hp : s.pin = true) (hp' : t.pin = false) {b : Bool} (hfar : s.highSoFar + k = s.cfg.th b)
    (hahead : 1 ≤ t.lowAhead) : t.lineShape := by
  rw [lineShape_low hp', hcfg, htr, hp, runs_push_snoc]
  exact (hfar ▸ ((lineShape_high hp).1 hs).high k).settled hahead

end

/-- COND ends the high time of a 0 and lets a 1 go on. -/
theorem exec_cond_keeps_lineShape {s t : State} (hp : s.phase = Phase.cond) (hx : exec .cond s = .next t) (hi : s.Inv)
    (h6 : s.cfg.V6) (hs : s.lineShape) : t.lineShape := by
  obtain ⟨hpin, -⟩ := (inv_high (.inr hp)).1 hi
  obtain ⟨htr, -⟩ := exec_emits hx
  have hpin' : s.condPin = s.currentBit := State.condPin_of_high hpin
  cases hx
  cases hb : s.currentBit
  · refine lineShape_falls hs rfl htr hpin (hpin'.trans hb) (b := false) ?_ ?_
    · simp +decide [State.highSoFar, hp, Cfg.cost, Cfg.th, Cfg.th0]
    · exact h6.trans ((Nat.le_add_left _ _).trans (Nat.le_add_left _ _))
  · refine lineShape_stays_high hs rfl htr hpin (hpin'.trans hb) ?_
    simp +decide [State.highSoFar, hp, Cfg.cost]

/-- HOLDD goes on low after a 0 and high after a 1. -/
theorem exec_holdd_keeps_lineShape {s t : State} (hp : s.phase = Phase.holdd) (hx : exec .holdd s = .next t)
    (hs : s.lineShape) : t.lineShape := by
  obtain ⟨htr, -⟩ := exec_emits hx
  cases hx
  cases hpin : s.pin
  · refine lineShape_stays_low hs rfl htr hpin hpin ?_
    simp +decide [State.lowAhead, hp, Cfg.cost]
  · refine lineShape_stays_high hs rfl htr hpin hpin ?_
    simp +decide [State.highSoFar, hp, Cfg.cost]

/-- FALL goes on low after a 0 and ends the high time of a 1. -/
theorem exec_fall_keeps_lineShape {s t : State} (hp : s.phase = Phase.fall) (hx : exec .fall s = .next t)
    (h6 : s.cfg.V6) (hs : s.lineShape) : t.lineShape := by
  obtain ⟨htr, -⟩ := exec_emits hx
  cases hx
  cases hpin : s.pin
  · refine lineShape_stays_low hs rfl htr hpin rfl ?_
    simp +decide [State.lowAhead, hp, Cfg.cost]
  · refine lineShape_falls hs rfl htr hpin rfl (b := true) ?_ h6
    simp +decide [State.highSoFar, hp, Cfg.cost, Cfg.th, Cfg.th1]

/-- Every instruction keeps it. -/
theorem exec_keeps_lineShape {s t : State} {i : Instr} (hf : s.fetches i) (hx : exec i s = .next t) (hi : s.Inv)
    (h6 : s.cfg.V6) (hs : s.lineShape) : t.lineShape := by
  obtain ⟨hcfg, -⟩ := exec_frame hx
  obtain ⟨htr, -⟩ := exec_emits hx
  cases exec_executes hx with
  | waits => exact hs
  | transmit n hp =>
    obtain ⟨hpin, -⟩ := (inv_outside (.inl hp)).1 hi
    exact lineShape_stays_low hs hcfg htr hpin hpin (by simp +decide [State.lowAhead, hp])
  | latch hp =>
    obtain ⟨hpin, -⟩ := (inv_outside (.inl hp)).1 hi
    exact lineShape_stays_low hs hcfg htr hpin hpin (by simp +decide [State.lowAhead, hp])
  | enter =>
    have hp : s.phase = Phase.enter := hf.phase rfl
    obtain ⟨hpin, -⟩ := (inv_enter hp).1 hi
    refine lineShape_stays_low hs hcfg htr hpin hpin ?_
    cases hl : s.hasBytes <;> simp +decide [State.lowAhead, hp, State.afterEnter, hl]
  | loadb =>
    have hp : s.phase = Phase.loadb := hf.phase rfl
    obtain ⟨hpin, -⟩ := (inv_loadb hp).1 hi
    exact lineShape_stays_low hs hcfg htr hpin hpin (by simp +decide [State.lowAhead, hp])
  | rise =>
    have hp : s.phase = Phase.rise := hf.phase rfl
    obtain ⟨hpin, -⟩ := (inv_low (.inl hp)).1 hi
    exact lineShape_rises hs hcfg htr hpin rfl (by simp +decide [State.lowAhead, hp, Cfg.cost]) rfl
  | holdb =>
    have hp : s.phase = Phase.holdb := hf.phase rfl
    obtain ⟨hpin, -⟩ := (inv_high (.inl hp)).1 hi
    exact lineShape_stays_high hs hcfg htr hpin hpin (by simp +decide [State.highSoFar, hp, Cfg.cost])
  | cond => exact exec_cond_keeps_lineShape (hf.phase rfl) hx hi h6 hs
  | holdd => exact exec_holdd_keeps_lineShape (hf.phase rfl) hx hs
  | fall => exact exec_fall_keeps_lineShape (hf.phase rfl) hx h6 hs
  | holdf =>
    have hp : s.phase = Phase.holdf := hf.phase rfl
    obtain ⟨hpin, -⟩ := (inv_low (.inr (.inl hp))).1 hi
    refine lineShape_stays_low hs hcfg htr hpin hpin ?_
    simp +decide [State.lowAhead, hp, Cfg.cost, Cfg.tl1]
    omega
  | nextBit =>
    have hp : s.phase = Phase.next := hf.phase rfl
    obtain ⟨hpin, -⟩ := (inv_low (.inr (.inr hp))).1 hi
    refine lineShape_stays_low hs hcfg htr hpin hpin ?_
    simp +decide [State.lowAhead, hp, Cfg.cost, Nat.add_comm]
  | nextByte =>
    have hp : s.phase = Phase.next := hf.phase rfl
    obtain ⟨hpin, -⟩ := (inv_low (.inr (.inr hp))).1 hi
    refine lineShape_stays_low hs hcfg htr hpin hpin ?_
    cases hl : s.bytesRemain <;> simp +decide [State.lowAhead, hp, Cfg.cost, State.afterByte, hl, Nat.add_comm]
  | exit =>
    have hp : s.phase = Phase.exit := hf.phase rfl
    obtain ⟨hpin, -⟩ := (inv_exit hp).1 hi
    exact lineShape_stays_low hs hcfg htr hpin hpin (by simp +decide [State.lowAhead, hp])
  | holdr =>
    have hp : s.phase = Phase.holdr := hf.phase rfl
    obtain ⟨hpin, -⟩ := (inv_outside (.inr hp)).1 hi
    exact lineShape_stays_low hs hcfg htr hpin hpin (by simp +decide [State.lowAhead, hp])

/-! Every step keeps it. -/

/-- With IE = 1 the block is in IDLE, in ENTER or in HOLDR. -/
theorem outside_of_ie {s : State} (hi : s.Inv) (hie : s.ie = true) :
    (s.phase = Phase.idle ∨ s.phase = Phase.holdr) ∨ s.phase = Phase.enter := by
  obtain ⟨⟨hlegal, -, hmask, -⟩, -⟩ := (inv_iff s).1 hi
  have hout : ¬ (2 ≤ s.phase.toNat ∧ s.phase.toNat ≤ 10) := fun h => by simp [hmask h] at hie
  simp only [← BitVec.toNat_inj, BitVec.toNat_ofNat]
  omega

/-- Where a maskable source is served the pin is low. -/
theorem pin_low_of_ie {s : State} (hi : s.Inv) (hie : s.ie = true) : s.pin = false := by
  rcases outside_of_ie hi hie with hp | hp
  · exact ((inv_outside hp).1 hi).1
  · exact ((inv_enter hp).1 hi).1

theorem lineShape_emit_low {s : State} (hs : s.lineShape) (hp : s.pin = false) (k : Nat) : (s.emit k).lineShape :=
  lineShape_stays_low hs rfl rfl hp hp (Nat.le_add_left _ k)

theorem write_keeps_lineShape {s t : State} (hw : HostWrites s t) (hs : s.lineShape) : t.lineShape := by
  cases hw <;> exact hs

theorem step_keeps_lineShape {s t : State} (hi : s.Inv) (hn : s.P_NoUnmaskable) (h6 : s.cfg.V6) (hs : s.lineShape)
    (h : step s = .next t) : t.lineShape := by
  rcases step_cases h with ⟨r, -, rfl⟩ | ⟨k, rest, -, ⟨-, hie⟩ | hp, rfl⟩ | ⟨-, hp, hh⟩ | ⟨-, -, i, hd, hx⟩
  · exact (lineShape_low rfl).2 (settled_nil _)
  · exact lineShape_emit_low (s := (s.setRst s.rst.tail).setPreemptor rest) hs (pin_low_of_ie hi hie) k
  · exact absurd (hp ▸ List.mem_cons_self) (hn k)
  · obtain ⟨hpin, -⟩ := (inv_outside (.inl hp)).1 hi
    obtain ⟨rest, ⟨k, rfl⟩ | hw | ⟨i, hc, hx⟩⟩ := hostStep_moves hh
    · exact lineShape_emit_low (s := s.inputsUsed.setHost rest) hs hpin k
    · exact write_keeps_lineShape hw hs
    · exact exec_keeps_lineShape (s := s.inputsUsed.setHost rest) (.inr ⟨hp, hc⟩) hx hi h6 hs
  · exact exec_keeps_lineShape (s := s.inputsUsed) (.inl hd) hx hi h6 hs

theorem run_keeps_lineShape {n : Nat} {s t : State} (hi : s.Inv) (hn : s.P_NoUnmaskable) (h6 : s.cfg.V6)
    (hs : s.lineShape) (h : runSteps n s = .next t) : t.lineShape := by
  induction n generalizing s with
  | zero => cases h; exact hs
  | succ n ih =>
    obtain ⟨u, hu, hr⟩ := runSteps_succ_iff.mp h
    have hcfg : u.cfg = s.cfg := (cfg_keptByMoves s.cfg).step rfl hu
    exact ih (inv_keptByMoves.step hi hu) (step_noUnmaskable hn hu) (hcfg ▸ h6) (step_keeps_lineShape hi hn h6 hs hu) hr

/-- Settles O44: after reset the trace is empty, every step keeps the shape of the line, and in IDLE the pin is low. -/
theorem onlySymbolsReachTheLine : Obligations.OnlySymbolsReachTheLine := by
  intro c h p r n t h6 hn hrun hidle
  have hinit := inv_afterReset c 0 0 h p r
  have hshape := run_keeps_lineShape hinit hn h6 ((lineShape_low rfl).2 (settled_nil _)) hrun
  have hcfg : t.cfg = c := (cfg_keptByMoves c).run rfl hrun
  obtain ⟨hpin, -⟩ := (inv_outside (.inl hidle)).1 (inv_keptByMoves.run hinit hrun)
  obtain ⟨hsym, hend⟩ := (lineShape_low hpin).1 hshape
  have hahead : t.lowAhead = t.cfg.cRise := by simp +decide [State.lowAhead, hidle]
  exact ⟨hcfg ▸ hsym, hend.imp_right (by omega)⟩

end Sys2Proof.Machine

/-! PROOFS. The decoder and the encoder, 30_encoding.md R80 to R92 (O4, O5, O6, O3). -/

namespace Sys2Proof.Machine

/-! Which words decode to which command, for every LEN_BITS. -/

/-- The decoder answers LATCH by the field `op` alone (R84). -/
theorem decodeCommand_latch_iff_op {lenBits w : Nat} :
    decodeCommand lenBits w = .instr .latch ↔ w < 2 ^ (2 + lenBits) ∧ cmdOp lenBits w = 2 := by
  unfold decodeCommand
  split
  · split <;> simp_all
  · simp_all

/-- The words of LATCH. -/
theorem decodeCommand_latch_iff {lenBits w : Nat} :
    decodeCommand lenBits w = .instr .latch ↔ 2 * 2 ^ lenBits ≤ w ∧ w < 3 * 2 ^ lenBits := by
  have hpos := Nat.two_pow_pos lenBits
  rw [decodeCommand_latch_iff_op, Nat.pow_add, cmdOp]
  generalize 2 ^ lenBits = p at hpos ⊢
  have hdiv : w / p = 2 ↔ 2 * p ≤ w ∧ w < 3 * p := by
    rw [Nat.div_eq_iff hpos]; omega
  have hlt : w / p < 4 ↔ w < 2 ^ 2 * p := Nat.div_lt_iff_lt_mul hpos
  generalize w / p = q at hdiv hlt ⊢
  omega

/-- The words of TRANSMIT(N). -/
theorem decodeCommand_transmit_iff {lenBits w n : Nat} :
    decodeCommand lenBits w = .instr (.transmit n) ↔ w = 2 ^ lenBits + n ∧ n < 2 ^ lenBits := by
  refine ⟨decodeCommand_transmit, ?_⟩
  rintro ⟨rfl, hn⟩
  exact decodeCommand_encode_transmit hn

/-- A word below the words of TRANSMIT or above those of LATCH is no instruction (R83). -/
theorem decodeCommand_reserved {lenBits w : Nat} (h : w < 2 ^ lenBits ∨ 3 * 2 ^ lenBits ≤ w) :
    (decodeCommand lenBits w).toOption = none := by
  cases hd : decodeCommand lenBits w with
  | rejected r => rfl
  | instr i =>
    rcases decodeCommand_format hd with ⟨n, rfl⟩ | rfl
    · obtain ⟨hw, hn⟩ := decodeCommand_transmit_iff.1 hd
      omega
    · obtain ⟨h2, h3⟩ := decodeCommand_latch_iff.1 hd
      omega

/-- The Host's step refuses a word that is no instruction. -/
theorem hostStep_reserved {s : State} {w : Nat} {rest : List HostStep} (h : s.host = .command w :: rest)
    (hd : (decodeCommand s.cfg.lenBits w).toOption = none) : hostStep s = .refused (.reservedCommand w) := by
  cases hr : decodeCommand s.cfg.lenBits w with
  | rejected r => simp [hostStep, h, hr]
  | instr i => simp [hr, Decoded.toOption] at hd

/-- Settles O6: no instruction has such a word, and the Host's step in IDLE refuses it. -/
theorem reservedWordsAreRefused : Obligations.ReservedWordsAreRefused := by
  refine ⟨fun w h => decodeCommand_reserved h, fun s w rest h hu hp hh => ?_⟩
  have hd := decodeCommand_reserved h
  exact ⟨hd, (step_idle hu hp).trans (hostStep_reserved (s := s.inputsUsed) hh hd)⟩

/-- Settles O3: each word written out, by the decoder. -/
theorem wordsOfTheSpecDecode : Obligations.WordsOfTheSpecDecode := by
  unfold Obligations.WordsOfTheSpecDecode
  decide

/-! The 18-bit words of LEN_BITS = 16. -/

theorem cmdOp_eq_extractLsb (w : BitVec 18) : cmdOp 16 w.toNat = (w.extractLsb 17 16).toNat := by
  simp [cmdOp, BitVec.extractLsb, BitVec.extractLsb', Nat.shiftRight_eq_div_pow]

theorem cmdLen_eq_extractLsb (w : BitVec 18) : cmdLen 16 w.toNat = (w.extractLsb 15 0).toNat := by
  simp [cmdLen, BitVec.extractLsb, BitVec.extractLsb']

/-- The decoder as R92 writes it, by bits 17 and 16. -/
theorem decodeCommand_bits (w : BitVec 18) : decodeCommand 16 w.toNat =
    if w.extractLsb 17 16 = 0b01#2 then .instr (.transmit (w.extractLsb 15 0).toNat)
    else if w.extractLsb 17 16 = 0b10#2 then .instr .latch
    else if w.extractLsb 17 16 = 0b00#2 then .rejected .reservedOp00
    else .rejected .reservedOp11 := by
  have hlt : w.toNat < 2 ^ (2 + 16) := w.isLt
  rw [decodeCommand, if_pos hlt, cmdOp_eq_extractLsb, cmdLen_eq_extractLsb]
  generalize w.extractLsb 17 16 = op
  match op with
  | 0b00#2 => rfl
  | 0b01#2 => rfl
  | 0b10#2 => rfl
  | 0b11#2 => rfl

/-- The mask of R82 keeps bits 17 and 16. -/
theorem and_mask_eq_shiftLeft (w : BitVec 18) : w &&& 0x30000#18 = (w.extractLsb 17 16).setWidth 18 <<< 16 := by
  ext i hi
  interval_cases i <;> simp [BitVec.extractLsb]

/-- A word by the two bits that the mask keeps. -/
theorem and_mask_eq_iff (w : BitVec 18) (op : BitVec 2) :
    w &&& 0x30000#18 = op.setWidth 18 <<< 16 ↔ w.extractLsb 17 16 = op := by
  have hinj : ∀ x y : BitVec 2, x.setWidth 18 <<< 16 = y.setWidth 18 <<< 16 ↔ x = y := by decide
  rw [and_mask_eq_shiftLeft]
  exact hinj _ op

/-- Settles O5: the mask keeps the bits by which R92 decodes, and the words of LATCH are a range. -/
theorem commandsByMatchAndMask : Obligations.CommandsByMatchAndMask := by
  refine ⟨fun w => ?transmit, fun w => ?latch, rfl, rfl, rfl, fun w h2 h3 => ?range, rfl⟩
  case transmit =>
    refine Iff.trans ?_ (and_mask_eq_iff w 0b01#2).symm
    rw [decodeCommand_bits]
    split_ifs <;> simp_all
  case latch =>
    refine Iff.trans ?_ (and_mask_eq_iff w 0b10#2).symm
    rw [decodeCommand_bits]
    split_ifs <;> simp_all
  case range => exact decodeCommand_latch_iff.2 ⟨h2, Nat.lt_succ_of_le h3⟩

/-! Both round trips, for every LEN_BITS. -/

/-- The word of a well-formed instruction fits its format. -/
theorem encode_lt {lenBits : Nat} {i : Instr} (hw : i.wf lenBits = true) :
    encode lenBits i < 2 ^ i.format.bits lenBits := by
  have hpos := Nat.two_pow_pos lenBits
  have hwidth : 2 ^ (2 + lenBits) = 4 * 2 ^ lenBits := Nat.pow_add 2 2 lenBits
  cases i with
  | transmit n =>
    have hn : n < 2 ^ lenBits := of_decide_eq_true hw
    simp only [encode, Instr.format, Format.bits]
    omega
  | latch =>
    simp only [encode, Instr.format, Format.bits]
    omega
  | _ => simp [encode, Instr.format, Format.bits]

/-- Decoding the word of a well-formed instruction gives it back. -/
theorem decode_encode {lenBits : Nat} {i : Instr} (hw : i.wf lenBits = true) :
    decode lenBits i.format (encode lenBits i) = .instr i := by
  cases hi : i.format with
  | cmd => exact decodeCommand_encode hw hi
  | uop =>
    have hlt : encode lenBits i < 2 ^ 4 := by simpa [hi, Format.bits] using encode_lt hw
    rw [decode, if_pos hlt]
    exact decodePhase_encode lenBits hi

/-- A word that decodes is the word of a well-formed instruction, but for the ignored `len` of LATCH. -/
theorem encode_decodeCommand {lenBits w : Nat} {i : Instr} (h : decodeCommand lenBits w = .instr i) :
    i.wf lenBits = true ∧ encode lenBits i = if i = .latch then 2 * 2 ^ lenBits else w := by
  rcases decodeCommand_format h with ⟨n, rfl⟩ | rfl
  · obtain ⟨hw, hn⟩ := decodeCommand_transmit_iff.1 h
    exact ⟨decide_eq_true hn, hw.symm⟩
  · exact ⟨rfl, rfl⟩

/-- A code that decodes is the word of its micro-operation. -/
theorem encode_decodePhase (lenBits : Nat) {p : PhaseCode} {i : Instr} (h : decodePhase p = .instr i) :
    encode lenBits i = p.toNat := by
  rcases decodePhase_cases h with ⟨rfl, rfl⟩ | ⟨rfl, rfl⟩ | ⟨rfl, rfl⟩ | ⟨rfl, rfl⟩ | ⟨rfl, rfl⟩ | ⟨rfl, rfl⟩ |
    ⟨rfl, rfl⟩ | ⟨rfl, rfl⟩ | ⟨rfl, rfl⟩ | ⟨rfl, rfl⟩ | ⟨rfl, rfl⟩ <;> rfl

/-- Settles O4: R92's decoder by bits 17 and 16, and the round trips for every LEN_BITS, of which those of R92 are the
case 16. -/
theorem decodeAndEncodeAgree : Obligations.DecodeAndEncodeAgree := by
  refine ⟨decodeCommand_bits, fun n hn => ⟨rfl, ?_⟩, rfl, decodeCommand_encode_latch 16,
    fun w i h => (encode_decodeCommand h).2, fun lenBits i hw => ⟨encode_lt hw, decode_encode hw⟩,
    fun lenBits w i => encode_decodeCommand, fun lenBits p i => encode_decodePhase lenBits⟩
  exact decodeCommand_encode_transmit (Nat.lt_succ_of_le hn)

end Sys2Proof.Machine

/-! PROOFS. The seven steps of a cell and the level in each of its cycles, 30_encoding.md R71, R72 (O34). -/

namespace Sys2Proof.Machine

/-! The level in a cycle depends on the runs alone. -/

theorem levelAt_consRun (seg : Segment) (r : Trace) (o : Nat) :
    Trace.levelAt (consRun seg r) o = Trace.levelAt (seg :: r) o := by
  obtain ⟨l, k⟩ := seg
  by_cases hk : k = 0
  · simp [hk, Trace.levelAt]
  match r with
  | [] => simp [consRun, hk]
  | (m, c) :: rest =>
    by_cases hl : l = m
    · by_cases ho : o < k
      · simp [consRun, hk, hl, Trace.levelAt, ho, Nat.lt_add_right]
      · have hlt : o - k < c ↔ o < k + c := by omega
        simp [consRun, hk, hl, Trace.levelAt, ho, hlt, Nat.sub_sub]
    · simp [consRun, hk, hl]

/-- Runs keeps the level in every cycle. -/
theorem levelAt_runs (t : Trace) (o : Nat) : Trace.levelAt (runs t) o = Trace.levelAt t o := by
  induction t generalizing o with
  | nil => rfl
  | cons seg t ih => simp only [runs_cons, levelAt_consRun, Trace.levelAt, ih]

/-! Emissions in a row. -/

/-- The segments that have cycles: what emission of them in a row appends. -/
def solid (segs : Trace) : Trace := segs.filter fun seg => decide (seg.2 ≠ 0)

theorem push_solid (t segs : Trace) (l : Level) (k : Nat) :
    Trace.push (t ++ solid segs) l k = t ++ solid (segs ++ [(l, k)]) := by
  by_cases hk : k = 0 <;> simp [Trace.push, solid, hk]

@[simp] theorem runs_solid (segs : Trace) : runs (solid segs) = runs segs := by
  induction segs with
  | nil => rfl
  | cons seg segs ih =>
    obtain ⟨l, k⟩ := seg
    by_cases hk : k = 0
    · have hdrop : solid ((l, k) :: segs) = solid segs := by simp [solid, hk]
      rw [hdrop, ih, runs_cons, hk, consRun_zero]
    · have hkeep : solid ((l, k) :: segs) = (l, k) :: solid segs := by simp [solid, hk]
      rw [hkeep, runs_cons, runs_cons, ih]

/-! Steps that nothing disturbs. -/

/-- Nothing disturbs the steps to come as long as IE stays 0: no reset comes, no source ignores IE, and IE is 0. -/
def State.calm (s : State) : Prop := s.noReset ∧ s.P_NoUnmaskable ∧ s.ie = false

theorem State.calm.undisturbedNow {s : State} (hc : s.calm) : s.undisturbedNow := by
  obtain ⟨hr, hn, hie⟩ := hc
  refine ⟨fun h => by simpa using hr true (List.mem_of_mem_head? h), ?_⟩
  rcases hp : s.preemptor with _ | ⟨_ | k | k, rest⟩
  · trivial
  · trivial
  · exact hie
  · exact hn k (hp ▸ List.mem_cons_self)

theorem State.calm.inputsUsed {s : State} (hc : s.calm) : s.inputsUsed.calm := by
  obtain ⟨hr, hn, hie⟩ := hc
  exact ⟨fun r h => hr r (List.mem_of_mem_tail h), fun k h => hn k (s.inputsUsed_preemptor_suffix.subset h), hie⟩

/-- In a calm state the next step runs the operation of PHASE's code. -/
theorem State.calm.step {s : State} (hc : s.calm) {i : Instr} (hd : decodePhase s.phase = .instr i) :
    step s = exec i s.inputsUsed :=
  step_operation hc.undisturbedNow (decodePhase_ne_idle hd) hd

/-! The steps of a cell. -/

/-- What the operations from RISE to HOLDF emit when the current bit is `b`. -/
def cellSegments (c : Cfg) (b : Bool) : Trace :=
  [(false, c.cRise), (true, c.base), (true, c.cCond), (b, c.delta), (b, c.cFall), (false, c.final)]

/-- With the cycles of NEXT they are a cell's waveform (R71). -/
theorem runs_cellSegments (c : Cfg) (b : Bool) :
    runs (cellSegments c b ++ [(false, c.cLoop)]) = runs (cellTrace c b) := by
  cases b
  · have hhigh : c.th false = c.base + c.cCond := rfl
    have htail : c.tcell - c.cRise - (c.base + c.cCond) = c.delta + (c.cFall + (c.final + c.cLoop)) := by
      simp only [Cfg.tcell]; omega
    simp [cellSegments, cellTrace, consRun_merge, hhigh, htail]
  · have hhigh : c.th true = c.base + (c.cCond + (c.delta + c.cFall)) := by simp [Cfg.th, Cfg.th1, Nat.add_assoc]
    have htail : c.tcell - c.cRise - (c.base + (c.cCond + (c.delta + c.cFall))) = c.final + c.cLoop := by
      simp only [Cfg.tcell]; omega
    simp [cellSegments, cellTrace, consRun_merge, hhigh, htail]

/-- What no operation from RISE to HOLDF writes, kept as a state in which the rest is set to fixed values. -/
def State.cellFrame (s : State) : State :=
  { s with
    phase := Phase.idle, pin := false, trace := [], oeTrace := [], now := 0, line := .fresh, rst := []
    preemptor := [] }

/-- An operation that spends cycles, writes the pin and goes on leaves the frame. -/
theorem cellFrame_operation (s : State) (k : Nat) (v : Level) (p : PhaseCode) :
    (((s.inputsUsed.spend k).drive v).goto p).cellFrame = s.cellFrame := by
  unfold State.cellFrame
  rfl

/-- The run that began its cell in `s` stands in `u`: PHASE is `p`, the pin has level `pin`, `segs` has been emitted. -/
structure State.cellAt (s : State) (p : PhaseCode) (pin : Level) (segs : Trace) (u : State) : Prop where
  calm : u.calm
  phase : u.phase = p
  pin : u.pin = pin
  trace : u.trace = s.trace ++ solid segs
  now : u.now = s.now + segs.total
  frame : u.cellFrame = s.cellFrame

section
variable {s u : State} {p : PhaseCode} {pin : Level} {segs : Trace}

theorem State.cellAt.cfg (h : s.cellAt p pin segs u) : u.cfg = s.cfg := by
  have hsame : u.cellFrame.cfg = s.cellFrame.cfg := by rw [h.frame]
  exact hsame

theorem State.cellAt.shreg (h : s.cellAt p pin segs u) : u.shreg = s.shreg := by
  have hsame : u.cellFrame.shreg = s.cellFrame.shreg := by rw [h.frame]
  exact hsame

/-- An operation that spends its cycles, leaves the pin at `v` and goes to `p'` takes the cell on. -/
theorem State.cellAt.next {p' : PhaseCode} {v : Level} {i : Instr} (h : s.cellAt p pin segs u)
    (hd : decodePhase p = .instr i)
    (hx : exec i u.inputsUsed = .next (((u.inputsUsed.spend (u.cfg.cost i)).drive v).goto p')) :
    ∃ t, step u = .next t ∧ s.cellAt p' v (segs ++ [(pin, s.cfg.cost i)]) t := by
  have hcfg := h.cfg
  obtain ⟨hcalm, hphase, hpin, htrace, hnow, hframe⟩ := h
  refine ⟨_, (hcalm.step (hphase ▸ hd)).trans hx, hcalm.inputsUsed, rfl, rfl, ?_, ?_,
    (cellFrame_operation ..).trans hframe⟩
  · show Trace.push u.trace u.pin (u.cfg.cost i) = _
    rw [htrace, hpin, hcfg, push_solid]
  · show u.now + u.cfg.cost i = _
    simp [hnow, hcfg, Nat.add_assoc]

end

/-- From RISE with the pin low six steps lead to NEXT, and emit the cell up to there. -/
theorem runSteps_rise_to_next {s : State} (hc : s.calm) (hp : s.phase = Phase.rise) (hpin : s.pin = false) :
    ∃ u, runSteps 6 s = .next u ∧ s.cellAt Phase.next false (cellSegments s.cfg s.currentBit) u := by
  have h0 : s.cellAt Phase.rise false [] s := ⟨hc, hp, hpin, by simp [solid], rfl, rfl⟩
  obtain ⟨u1, hs1, h1⟩ := h0.next (i := .rise) (v := true) (p' := Phase.holdb) rfl rfl
  obtain ⟨u2, hs2, h2⟩ := h1.next (i := .holdb) (v := u1.pin) (p' := Phase.cond) rfl rfl
  obtain ⟨u3, hs3, h3⟩ := h2.next (i := .cond) (v := u2.condPin) (p' := Phase.holdd) rfl rfl
  obtain ⟨u4, hs4, h4⟩ := h3.next (i := .holdd) (v := u3.pin) (p' := Phase.fall) rfl rfl
  obtain ⟨u5, hs5, h5⟩ := h4.next (i := .fall) (v := false) (p' := Phase.holdf) rfl rfl
  obtain ⟨u6, hs6, h6⟩ := h5.next (i := .holdf) (v := u5.pin) (p' := Phase.next) rfl rfl
  have hbit : u2.condPin = s.currentBit := by
    rw [State.condPin_of_high (h2.pin.trans h1.pin), State.currentBit, h2.shreg, State.currentBit]
  rw [h5.pin, h3.pin, hbit, h1.pin] at h6
  refine ⟨u6, ?_, h6⟩
  rw [runSteps_succ hs1, runSteps_succ hs2, runSteps_succ hs3, runSteps_succ hs4, runSteps_succ hs5, runSteps_succ hs6,
    runSteps_zero]

/-- NEXT shifts SHREG, whatever bits or bytes remain. -/
theorem exec_next_shreg {s t : State} (h : exec .next s = .next t) : t.shreg = s.shreg <<< 1 := by
  cases exec_executes h with
  | waits hi => cases hi
  | nextBit => rfl
  | nextByte => rfl

/-- From RISE with the pin low seven steps emit the cell of the current bit (R71), leave the pin low and shift SHREG. -/
theorem runSteps_cell {s : State} (hc : s.calm) (hp : s.phase = Phase.rise) (hpin : s.pin = false) :
    ∃ t segs, runSteps 7 s = .next t ∧ t.trace = s.trace ++ segs ∧
      runs segs = runs (cellTrace s.cfg s.currentBit) ∧ t.pin = false ∧ t.shreg = s.shreg <<< 1 := by
  obtain ⟨u, hrun, h⟩ := runSteps_rise_to_next hc hp hpin
  obtain ⟨t, hx⟩ := exec_answers .next u.inputsUsed
  have hstep : step u = .next t := (h.calm.step (h.phase ▸ rfl)).trans hx
  have htr : t.trace = Trace.push u.trace u.pin u.cfg.cLoop := (exec_emits hx).1
  have hlow : t.pin = u.pin := exec_pin (s := u.inputsUsed) hx (by decide) (by decide) (by decide)
  have hshift : t.shreg = u.shreg <<< 1 := exec_next_shreg (s := u.inputsUsed) hx
  rw [h.trace, h.pin, h.cfg, push_solid] at htr
  refine ⟨t, _, ?_, htr, ?_, hlow.trans h.pin, h.shreg ▸ hshift⟩
  · rw [runSteps_add (b := 1) hrun, runSteps_succ hstep, runSteps_zero]
  · rw [runs_solid, runs_cellSegments]

/-- Settles O34: a RISE of the invariant starts a calm cell with the pin low, and Runs keeps the levels. -/
theorem cellIsLeadHighTail : Obligations.CellIsLeadHighTail := by
  refine ⟨fun s hi hn hr hp => ?_, fun c b => ?_⟩
  · obtain ⟨hpin, hie, -⟩ := (inv_low (.inl hp)).1 hi
    obtain ⟨t, segs, hrun, htr, hruns, -⟩ := runSteps_cell ⟨hr, hn, hie⟩ hp hpin
    refine ⟨t, segs, hrun, htr, fun o => ?_⟩
    rw [← levelAt_runs, hruns, levelAt_runs, levelAt_cellTrace]
    rfl
  · have hle := cRise_add_th_le_tcell c b
    omega

end Sys2Proof.Machine

/-! PROOFS. The pseudo-instructions SHOW and FILL, 30_encoding.md R89, R90 (O36). -/

namespace Sys2Proof.Machine

@[simp] theorem length_frameBytes (pixels : List Rgb) : (frameBytes pixels).length = 3 * pixels.length := by
  simp [frameBytes, List.length_flatMap, Nat.mul_comm]

/-- The frames of a Host that writes a frame's bytes, sends them as TRANSMIT and latches them. -/
theorem framesPresented_showSteps {s : State} {pixels : List Rgb} (hlen : pixels.length = s.cfg.nPix)
    (hfit : 3 * s.cfg.nPix < 2 ^ s.cfg.lenBits) (rest : List HostStep) :
    framesPresented s none (showSteps s.cfg.lenBits pixels ++ rest) =
      (framesPresented (s.writeFb (frameBytes pixels)) none rest).map (frameBytes pixels :: ·) := by
  have hn : (frameBytes pixels).length = 3 * s.cfg.nPix := by rw [length_frameBytes, hlen]
  have hbytes := s.fbBytes_writeFb (frameBytes pixels) (by rw [hn]; exact hfit.le)
  have htransmit := decodeCommand_encode_transmit (hn ▸ hfit)
  rw [hn] at htransmit hbytes
  simp [showSteps, transmitSteps, present, framesPresented, hn, htransmit, decodeCommand_encode_latch, hbytes]

/-- A program of SHOW lines presents the frames it shows. -/
theorem framesPresented_show (frames : List (List Rgb)) {s : State}
    (hlen : ∀ pixels ∈ frames, pixels.length = s.cfg.nPix) (hfit : 3 * s.cfg.nPix < 2 ^ s.cfg.lenBits) :
    framesPresented s none (programSteps s.cfg.lenBits (frames.map Line.show)) = some (frames.map frameBytes) := by
  induction frames generalizing s with
  | nil => rfl
  | cons pixels frames ih =>
    obtain ⟨hhead, htail⟩ := List.forall_mem_cons.mp hlen
    have hrest := ih (s := s.writeFb (frameBytes pixels)) htail hfit
    rw [State.writeFb_cfg] at hrest
    simp only [programSteps, List.map_cons, List.flatMap_cons, Line.steps]
    rw [framesPresented_showSteps hhead hfit]
    exact congrArg (Option.map _) hrest

/-- The words of SHOW with LEN_BITS = 16 (R89). -/
theorem commandWords_show (pixels : List Rgb) :
    commandWords (Line.steps 16 (.show pixels)) = [0x10000 + 3 * pixels.length, 0x20000] := by
  simp [Line.steps, showSteps, transmitSteps, present, commandWords, encode]

/-- Settles O36: the expansion is SHOW's definition. -/
theorem showAndFillExpand : Obligations.ShowAndFillExpand := by
  refine ⟨fun lenBits pixels => rfl, fun pixels _ => commandWords_show pixels, fun lenBits m p => rfl,
    commandWords_show _, commandWords_show _, fun s frames hlen hfit hh => ⟨?_, hlen⟩⟩
  rw [hh]
  exact framesPresented_show frames hlen hfit

end Sys2Proof.Machine

/-! PROOFS. A TRANSMIT from its acceptance to its EXIT, 40_transmit.md R112, R113 (O37, O33). -/

namespace Sys2Proof.Machine

/-- Traces with the same runs have the same runs under a common tail. -/
theorem runs_append_congr_left {a b : Trace} (h : runs a = runs b) (u : Trace) : runs (a ++ u) = runs (b ++ u) := by
  induction u generalizing a b with
  | nil => simpa using h
  | cons seg u ih =>
    have hsnoc : runs (a ++ [seg]) = runs (b ++ [seg]) := by rw [runs_append_singleton, runs_append_singleton, h]
    simpa using ih hsnoc

/-! What a run has sent on since a state. -/

/-- What the operations from LOADB to NEXT leave: their frame `cellFrame` without the registers of the position. -/
def State.sendFrame (s : State) : State := { s.cellFrame with idx := 0, bitcnt := 0#4, shreg := 0#8 }

/-- The run from `s` stands in `u`, calm and with the pin low, and has sent the waveform `w` and nothing else. -/
structure State.sends (s : State) (w : Trace) (u : State) : Prop where
  calm : u.calm
  pin : u.pin = false
  waveform : runs u.trace = runs (s.trace ++ w)
  now : u.now = s.now + w.total
  frame : u.sendFrame = s.sendFrame

section
variable {s u v : State} {w w' : Trace}

/-- One waveform and then another one is the two in a row. -/
theorem State.sends.trans (h : s.sends w u) (h' : u.sends w' v) : s.sends (w ++ w') v where
  calm := h'.calm
  pin := h'.pin
  waveform := by rw [h'.waveform, ← List.append_assoc, runs_append_congr_left h.waveform]
  now := by rw [h'.now, h.now, Trace.total_append, Nat.add_assoc]
  frame := h'.frame.trans h.frame

theorem State.sends.cfg (h : s.sends w u) : u.cfg = s.cfg := (congrArg State.cfg h.frame :)

theorem State.sends.len (h : s.sends w u) : u.len = s.len := (congrArg State.len h.frame :)

theorem State.sends.ieSaved (h : s.sends w u) : u.ieSaved = s.ieSaved := (congrArg State.ieSaved h.frame :)

theorem State.sends.host (h : s.sends w u) : u.host = s.host := (congrArg State.host h.frame :)

theorem State.sends.fb (h : s.sends w u) : u.fb = s.fb := (congrArg State.fb h.frame :)

theorem State.sends.fbByte (h : s.sends w u) (i : Nat) : u.fbByte i = s.fbByte i :=
  State.fbByte_congr h.fb (congrArg State.fbGen h.frame :) i

end

/-! A cell. -/

theorem State.afterByte_congr {s u : State} (hcfg : u.cfg = s.cfg) (hlen : u.len = s.len) (hidx : u.idx = s.idx) :
    u.afterByte = s.afterByte ∧ u.nextIdx = s.nextIdx := by
  have hnext : u.nextIdx = s.nextIdx := by simp only [State.nextIdx, hcfg, hidx]
  exact ⟨by simp only [State.afterByte_eq, hnext, hlen], hnext⟩

/-- From a calm state an operation's step leads to a calm one unless it writes IE. -/
theorem State.calm.exec {i : Instr} {s t : State} (hc : s.calm) (hx : exec i s.inputsUsed = .next t)
    (hie : t.ie = s.ie) : t.calm := by
  obtain ⟨hr, hn, hie0⟩ := hc.inputsUsed
  obtain ⟨-, -, -, -, hpre, hrst, -⟩ := exec_frame hx
  exact ⟨fun r h => hr r (hrst ▸ h), fun k h => hn k (hpre ▸ h), hie.trans hie0⟩

/-- What NEXT makes of the position (40_transmit.md R110): one bit less, and where none is left one byte more. -/
def State.movesOn (s t : State) : Prop :=
  t.shreg = s.shreg <<< 1 ∧ t.bitcnt = s.bitcnt - 1#4 ∧
  (t.bitcnt ≠ 0#4 → t.phase = Phase.rise ∧ t.idx = s.idx) ∧
  (t.bitcnt = 0#4 → t.phase = s.afterByte ∧ t.idx = s.nextIdx)

/-- NEXT moves the position on and leaves the frame, the pin and IE. -/
theorem exec_next_movesOn {s t : State} (h : exec .next s = .next t) :
    s.movesOn t ∧ t.sendFrame = s.sendFrame ∧ t.pin = s.pin ∧ t.ie = s.ie := by
  cases exec_executes h with
  | waits hi => cases hi
  | nextBit hb =>
    have hne := s.bitsRemain_iff.mp hb
    exact ⟨⟨rfl, rfl, fun _ => ⟨rfl, rfl⟩, fun h0 => absurd h0 hne⟩, rfl, rfl, rfl⟩
  | nextByte hb =>
    have h0 : ¬ s.bitcnt - 1#4 ≠ 0#4 := fun hne => Bool.eq_false_iff.mp hb (s.bitsRemain_iff.mpr hne)
    exact ⟨⟨rfl, rfl, fun hne => absurd hne h0, fun _ => ⟨rfl, rfl⟩⟩, rfl, rfl, rfl⟩

/-- Within a cell the position stays that of its start, so NEXT moves on from there. -/
theorem State.cellAt.movesOn {s u t : State} {p : PhaseCode} {pin : Level} {segs : Trace} (h : s.cellAt p pin segs u)
    (ht : u.movesOn t) : s.movesOn t := by
  have hlen : u.len = s.len := (congrArg State.len h.frame :)
  have hidx : u.idx = s.idx := (congrArg State.idx h.frame :)
  have hcnt : u.bitcnt = s.bitcnt := (congrArg State.bitcnt h.frame :)
  obtain ⟨hafter, hnext⟩ := State.afterByte_congr h.cfg hlen hidx
  simpa only [State.movesOn, h.shreg, hidx, hcnt, hafter, hnext] using ht

/-- From RISE with the pin low seven steps send the cell of the current bit and move the position on. -/
theorem runSteps_cell_sends {s : State} (hc : s.calm) (hp : s.phase = Phase.rise) (hpin : s.pin = false) :
    ∃ t, runSteps 7 s = .next t ∧ s.sends (cellTrace s.cfg s.currentBit) t ∧ s.movesOn t := by
  obtain ⟨u, hrun, h⟩ := runSteps_rise_to_next hc hp hpin
  obtain ⟨t, hx⟩ := exec_answers .next u.inputsUsed
  have hstep : step u = .next t := (h.calm.step (h.phase ▸ rfl)).trans hx
  obtain ⟨hmoves, hframe, hlow, hie⟩ := exec_next_movesOn hx
  obtain ⟨htr, -, hnow⟩ := exec_emits hx
  have hrun' : runSteps 7 s = .next t := by rw [runSteps_add (b := 1) hrun, runSteps_succ hstep, runSteps_zero]
  refine ⟨t, hrun', ⟨h.calm.exec hx hie, hlow.trans h.pin, ?waveform, ?now, ?frame⟩, h.movesOn hmoves⟩
  case waveform =>
    have htr' : t.trace = Trace.push u.trace u.pin u.cfg.cLoop := htr
    rw [htr', h.trace, h.pin, h.cfg, push_solid]
    exact runs_append_congr ((runs_solid _).trans (runs_cellSegments ..)) _
  case now =>
    have hnow' : t.now = u.now + u.cfg.cLoop := hnow
    have htotal := congrArg Trace.total (runs_cellSegments s.cfg s.currentBit)
    rw [total_runs, total_runs, Trace.total_append] at htotal
    rw [hnow', h.now, h.cfg, Nat.add_assoc, ← htotal]
    rfl
  case frame =>
    have hcell : u.sendFrame = s.sendFrame := by unfold State.sendFrame; rw [h.frame]
    exact hframe.trans hcell

/-! The cells of a byte and of a sequence of bytes. -/

/-- The current bits of a byte that is shifted out, `n` of them. -/
def sentBits : Nat → Byte → List Bool
  | 0, _ => []
  | n + 1, b => b.getLsbD 7 :: sentBits n (b <<< 1)

/-- Bit `7 - j` of a byte is its current bit after `j` shifts (10_state.md R26). -/
theorem getLsbD_shiftLeft_seven (b : Byte) {j : Nat} (hj : j < 8) : (b <<< j).getLsbD 7 = b.getLsbD (7 - j) := by
  rw [BitVec.getLsbD_shiftLeft, decide_eq_true (by decide : 7 < 8), decide_eq_false (by omega : ¬ 7 < j)]
  rfl

/-- Eight shifts send a byte's bits in the order of the wire. -/
theorem sentBits_eight (b : Byte) : sentBits 8 b = bitsOf b := by
  simp +arith only [sentBits, bitsOf, ← BitVec.shiftLeft_add, getLsbD_shiftLeft_seven]

theorem shiftLeft_eight (b : Byte) : b <<< 8 = 0#8 := BitVec.shiftLeft_eq_zero (Nat.le_refl 8)

/-- From RISE with `n + 1` bits left `n + 1` cells send them and lead to the end of the byte. -/
theorem runSteps_bits {n : Nat} {s : State} (hc : s.calm) (hp : s.phase = Phase.rise) (hpin : s.pin = false)
    (hcnt : s.bitcnt.toNat = n + 1) :
    ∃ t, runSteps (7 * (n + 1)) s = .next t ∧ s.sends ((sentBits (n + 1) s.shreg).flatMap (cellTrace s.cfg)) t ∧
      t.phase = s.afterByte ∧ t.idx = s.nextIdx ∧ t.shreg = s.shreg <<< (n + 1) ∧ t.bitcnt = 0#4 := by
  induction n generalizing s with
  | zero =>
    obtain ⟨u, hrun, hsends, hshreg, hcnt', -, hlast⟩ := runSteps_cell_sends hc hp hpin
    have h0 : u.bitcnt = 0#4 := by bv_omega
    obtain ⟨hphase, hidx⟩ := hlast h0
    refine ⟨u, hrun, ?_, hphase, hidx, hshreg, h0⟩
    simpa [sentBits, State.currentBit] using hsends
  | succ n ih =>
    obtain ⟨u, hrun, hsends, hshreg, hcnt', hmore, -⟩ := runSteps_cell_sends hc hp hpin
    obtain ⟨hphase, hidx⟩ := hmore (by bv_omega)
    obtain ⟨t, hrest, hsends', hphase', hidx', hshreg', h0⟩ := ih hsends.calm hphase hsends.pin (by bv_omega)
    obtain ⟨hafter, hnext⟩ := State.afterByte_congr hsends.cfg hsends.len hidx
    rw [hsends.cfg, hshreg] at hsends'
    refine ⟨t, ?_, hsends.trans hsends', hphase'.trans hafter, hidx'.trans hnext, ?_, h0⟩
    · rw [Nat.mul_succ, Nat.add_comm, runSteps_add hrun, hrest]
    · rw [hshreg', hshreg, ← BitVec.shiftLeft_add, Nat.add_comm 1]

/-- LOADB sends nothing and puts the byte at IDX into SHREG. -/
theorem step_loadb {s : State} (hc : s.calm) (hp : s.phase = Phase.loadb) (hpin : s.pin = false) :
    ∃ t, step s = .next t ∧ s.sends [] t ∧ t.phase = Phase.rise ∧ t.idx = s.idx ∧ t.shreg = s.fbByte s.idx ∧
      t.bitcnt = 8#4 := by
  have hx := exec_loadb s.inputsUsed
  refine ⟨_, (hc.step (hp ▸ rfl)).trans hx, ⟨hc.exec hx rfl, hpin, ?_, rfl, ?_⟩, rfl, rfl, rfl, rfl⟩
  · rw [List.append_nil]
    rfl
  · unfold State.sendFrame State.cellFrame
    rfl

/-- From LOADB 57 steps send the byte at IDX and lead to its end. -/
theorem runSteps_byte {s : State} (hc : s.calm) (hp : s.phase = Phase.loadb) (hpin : s.pin = false) :
    ∃ t, runSteps 57 s = .next t ∧ s.sends ((bitsOf (s.fbByte s.idx)).flatMap (cellTrace s.cfg)) t ∧
      t.phase = s.afterByte ∧ t.idx = s.nextIdx ∧ t.shreg = 0#8 ∧ t.bitcnt = 0#4 := by
  obtain ⟨u, hstep, hsends, hphase, hidx, hshreg, hcnt⟩ := step_loadb hc hp hpin
  obtain ⟨t, hrun, hsends', hphase', hidx', hshreg', h0⟩ :=
    runSteps_bits (n := 7) hsends.calm hphase hsends.pin (by rw [hcnt]; rfl)
  obtain ⟨hafter, hnext⟩ := State.afterByte_congr hsends.cfg hsends.len hidx
  rw [sentBits_eight, hsends.cfg, hshreg] at hsends'
  exact ⟨t, (runSteps_succ hstep).trans hrun, hsends.trans hsends', hphase'.trans hafter, hidx'.trans hnext,
    hshreg'.trans (shiftLeft_eight _), h0⟩

/-- From LOADB with `m + 1` bytes left, and LEN inside its field, they are sent and EXIT comes next. -/
theorem runSteps_bytes {m : Nat} {s : State} (hc : s.calm) (hp : s.phase = Phase.loadb) (hpin : s.pin = false)
    (hm : s.idx + (m + 1) = s.len) (hfit : s.len < 2 ^ s.cfg.lenBits) :
    ∃ t, runSteps (57 * (m + 1)) s = .next t ∧
      s.sends ((bitsOfBytes ((List.range' s.idx (m + 1)).map s.fbByte)).flatMap (cellTrace s.cfg)) t ∧
      t.phase = Phase.exit ∧ t.idx = s.len ∧ t.shreg = 0#8 ∧ t.bitcnt = 0#4 := by
  induction m generalizing s with
  | zero =>
    obtain ⟨u, hrun, hsends, hphase, hidx, hzero⟩ := runSteps_byte hc hp hpin
    have hnext : s.nextIdx = s.len := by rw [State.nextIdx, hm, Nat.mod_eq_of_lt hfit]
    refine ⟨u, hrun, ?_, hphase.trans ?_, hidx.trans hnext, hzero⟩
    · simpa [bitsOfBytes] using hsends
    · rw [State.afterByte_eq, if_neg (by omega)]
  | succ m ih =>
    obtain ⟨u, hrun, hsends, hphase, hidx, -⟩ := runSteps_byte hc hp hpin
    have hnext : s.nextIdx = s.idx + 1 := Nat.mod_eq_of_lt (by omega)
    have hmore : u.phase = Phase.loadb := by rw [hphase, State.afterByte_eq, if_pos (by omega)]
    obtain ⟨t, hrest, hsends', hphase', hidx', hzero⟩ := ih hsends.calm hmore hsends.pin
      (by rw [hidx, hsends.len]; omega) (by rw [hsends.len, hsends.cfg]; exact hfit)
    have hbytes : u.fbByte = s.fbByte := funext hsends.fbByte
    rw [hsends.cfg, hidx, hnext, hbytes] at hsends'
    refine ⟨t, ?_, ?_, hphase', hidx'.trans hsends.len, hzero⟩
    · rw [Nat.mul_succ, Nat.add_comm, runSteps_add hrun, hrest]
    · simpa [List.range'_succ, bitsOfBytes] using hsends.trans hsends'

/-! From the acceptance to the first cell, and the whole TRANSMIT. -/

/-- The state after the undisturbed step that accepts TRANSMIT(N), `rest` being the Host's actions behind it (R101). -/
def State.accepted (s : State) (rest : List HostStep) (n : Nat) : State :=
  (s.inputsUsed.setHost rest).acceptTransmit n

/-- The state after an undisturbed ENTER (41_critical_section.md R131). -/
def State.entered (s : State) : State :=
  (s.inputsUsed.spend s.cfg.cEnter).acquire.goto s.inputsUsed.afterEnter

/-- A point where no reset comes and no request stands first but `quiet` is undisturbed. -/
theorem undisturbedNow_of_quiet {s : State} (hr : s.noReset) (hq : ∀ x ∈ s.preemptor.take 1, x = .quiet) :
    s.undisturbedNow := by
  refine ⟨fun h => by simpa using hr true (List.mem_of_mem_head? h), ?_⟩
  rcases hp : s.preemptor with _ | ⟨x, rest⟩
  · trivial
  · obtain rfl : x = .quiet := hq x (by simp [hp])
    trivial

/-- With no preemption before ENTER commits the points before the acceptance and before ENTER are undisturbed. -/
theorem undisturbed_until_enter {s : State} (hr : s.noReset) (hn : s.P_NoUnmaskable) (hq : s.quietUntilEnter)
    (rest : List HostStep) (n : Nat) : s.undisturbedNow ∧ (s.accepted rest n).undisturbedNow := by
  rcases hq with hie | hq
  · have hc : s.calm := ⟨hr, hn, hie⟩
    have hc' : (s.accepted rest n).calm := hc.inputsUsed
    exact ⟨hc.undisturbedNow, hc'.undisturbedNow⟩
  · have hr' : (s.accepted rest n).noReset := fun r h => hr r (List.mem_of_mem_tail h)
    refine ⟨undisturbedNow_of_quiet hr fun x hx => hq x (List.take_subset_take_left _ (by decide) hx),
      undisturbedNow_of_quiet hr' fun x hx => hq x ?_⟩
    have hx' : x ∈ s.inputsUsed.preemptor.take 1 := hx
    rcases hp : s.preemptor with _ | ⟨y, ys⟩
    · simp [State.inputsUsed, hp] at hx'
    · obtain rfl : y = .quiet := hq y (by simp [hp])
      simp only [State.inputsUsed, hp] at hx'
      exact List.mem_cons_of_mem _ hx'

/-- Two steps accept a TRANSMIT and run its ENTER. -/
theorem runSteps_accept_enter {s : State} {w n : Nat} {rest : List HostStep} (hp : s.phase = Phase.idle)
    (hh : s.host = .command w :: rest) (hd : decodeCommand s.cfg.lenBits w = .instr (.transmit n)) (hr : s.noReset)
    (hn : s.P_NoUnmaskable) (hq : s.quietUntilEnter) : runSteps 2 s = .next (s.accepted rest n).entered := by
  obtain ⟨hu, hu'⟩ := undisturbed_until_enter hr hn hq rest n
  have haccept : step s = .next (s.accepted rest n) := (step_command hu hp hh hd).trans
    (exec_transmit_idle (s := s.inputsUsed.setHost rest) hp n)
  have henter : step (s.accepted rest n) = .next (s.accepted rest n).entered :=
    step_operation hu' (by decide : Phase.enter ≠ Phase.idle) rfl
  rw [runSteps_succ haccept, runSteps_succ henter, runSteps_zero]

/-- Where no reset and no source that ignores IE is to come, none is when the inputs of this point are used up. -/
theorem calmInputs_inputsUsed {s : State} (hr : s.noReset) (hn : s.P_NoUnmaskable) :
    s.inputsUsed.noReset ∧ s.inputsUsed.P_NoUnmaskable :=
  ⟨fun r h => hr r (List.mem_of_mem_tail h), fun k h => hn k (s.inputsUsed_preemptor_suffix.subset h)⟩

/-- Once ENTER has committed, IE is 0 and nothing disturbs the steps to come. -/
theorem entered_calm {s : State} (hr : s.noReset) (hn : s.P_NoUnmaskable) (rest : List HostStep) (n : Nat) :
    (s.accepted rest n).entered.calm := by
  obtain ⟨hr1, hn1⟩ := calmInputs_inputsUsed hr hn
  obtain ⟨hr2, hn2⟩ := calmInputs_inputsUsed (s := s.accepted rest n) hr1 hn1
  exact ⟨hr2, hn2, rfl⟩

/-- With N inside its field the test of ENTER finds N bytes. -/
theorem entered_phase (s : State) (rest : List HostStep) {n : Nat} (hfit : n < 2 ^ s.cfg.lenBits) :
    (s.accepted rest n).entered.phase = if 0 < n then Phase.loadb else Phase.exit := by
  have hlen : (s.accepted rest n).inputsUsed.len = n := Nat.mod_eq_of_lt hfit
  rw [State.entered, State.goto_phase, State.afterEnter_eq, hlen]

/-- From the commit of ENTER the LEN bytes of FB are sent and EXIT comes next. -/
theorem runSteps_cells {n : Nat} {s : State} (hc : s.calm) (hpin : s.pin = false) (hlen : s.len = n)
    (hp : s.phase = if 0 < n then Phase.loadb else Phase.exit) (hidx : s.idx = 0) (hfit : n < 2 ^ s.cfg.lenBits) :
    ∃ t, runSteps (57 * n) s = .next t ∧ s.sends ((bitsOfBytes (s.fbBytes n)).flatMap (cellTrace s.cfg)) t ∧
      t.phase = Phase.exit ∧ t.idx = n ∧ (n ≠ 0 → t.shreg = 0#8 ∧ t.bitcnt = 0#4) := by
  cases n with
  | zero =>
    have hnone : (bitsOfBytes (s.fbBytes 0)).flatMap (cellTrace s.cfg) = [] := by simp [bitsOfBytes, State.fbBytes]
    rw [hnone]
    exact ⟨s, rfl, ⟨hc, hpin, by rw [List.append_nil], rfl, rfl⟩, hp, hidx, fun h => absurd rfl h⟩
  | succ m =>
    obtain ⟨t, hrun, hsends, hphase, hidx', hzero⟩ :=
      runSteps_bytes (m := m) hc (by simpa using hp) hpin (by omega) (hlen ▸ hfit)
    rw [hidx, ← List.range_eq_range'] at hsends
    exact ⟨t, hrun, hsends, hphase, hidx'.trans hlen, fun _ => hzero⟩

/-- EXIT lets its cycles pass on the low line and restores IE. -/
theorem step_exit {s : State} (hc : s.calm) (hp : s.phase = Phase.exit) :
    step s = .next ((s.inputsUsed.spend s.cfg.cExit).release.goto Phase.idle) :=
  hc.step (i := .exit) (hp ▸ rfl)

@[simp] theorem total_cells (c : Cfg) (bits : List Bool) :
    Trace.total (bits.flatMap (cellTrace c)) = bits.length * c.tcell := by
  induction bits with
  | nil => simp
  | cons b bits ih => simp [ih, Nat.succ_mul, Nat.add_comm]

@[simp] theorem length_fbBytes (s : State) (n : Nat) : (s.fbBytes n).length = n := by simp [State.fbBytes]

/-- Low cycles before a TRANSMIT's waveform only lengthen its first segment. -/
theorem runs_push_transmitTrace (t : Trace) (c : Cfg) (bytes : List Byte) (k : Nat) :
    runs (t.push false k ++ transmitTrace c bytes) =
      runs (t ++ (false, k + c.cEnter) :: (transmitTrace c bytes).tail) := by
  rw [runs_append_congr_left (runs_push t false k), List.append_assoc]
  refine runs_append_congr ?_ t
  exact consRun_merge false k c.cEnter _

/-- Settles O37: acceptance and ENTER, the cells of the bytes, EXIT; a preemption in ENTER is one more low segment. -/
theorem transmitAppendsItsWaveform : Obligations.TransmitAppendsItsWaveform := by
  refine ⟨fun s w rest n hp hpin hh hd hr hn hq => ?_, fun s k rest hs hp hie hr hreq => ?_⟩
  · have hfit : n < 2 ^ s.cfg.lenBits := (decodeCommand_transmit hd).2
    have henter := runSteps_accept_enter hp hh hd hr hn hq
    have hlen : (s.accepted rest n).entered.len = n := Nat.mod_eq_of_lt hfit
    obtain ⟨v, hrun, hsends, hphase, hidx, hzero⟩ :=
      runSteps_cells (entered_calm hr hn rest n) hpin hlen (entered_phase s rest hfit) rfl hfit
    have hexit := step_exit hsends.calm hphase
    have hcfg : v.cfg = s.cfg := hsends.cfg
    refine ⟨(v.inputsUsed.spend v.cfg.cExit).release.goto Phase.idle, ?run, ?waveform, ?now, rfl, hsends.pin,
      hsends.ieSaved, hsends.len.trans hlen, hidx, hsends.host, hsends.fb, hzero⟩
    case run =>
      rw [show 3 + 57 * n = 2 + (57 * n + 1) by omega, runSteps_add henter, runSteps_add hrun, runSteps_succ hexit,
        runSteps_zero]
    case waveform =>
      calc runs (Trace.push v.trace v.pin v.cfg.cExit)
        _ = runs (v.trace ++ [(false, s.cfg.cExit)]) := by rw [runs_push, hsends.pin, hcfg]
        _ = runs (Trace.push s.trace s.pin s.cfg.cEnter ++ (bitsOfBytes (s.fbBytes n)).flatMap (cellTrace s.cfg) ++
              [(false, s.cfg.cExit)]) := runs_append_congr_left hsends.waveform _
        _ = runs (s.trace ++ [(false, s.cfg.cEnter)] ++ (bitsOfBytes (s.fbBytes n)).flatMap (cellTrace s.cfg) ++
              [(false, s.cfg.cExit)]) := by
          rw [hpin, List.append_assoc, List.append_assoc]
          exact runs_append_congr_left (runs_push ..) _
        _ = runs (s.trace ++ transmitTrace s.cfg (s.fbBytes n)) := by simp [transmitTrace]
    case now =>
      have hnow : v.now = s.now + s.cfg.cEnter + _ := hsends.now
      show v.now + v.cfg.cExit = _
      rw [hnow, hcfg, total_cells, length_bitsOfBytes, length_fbBytes]
      simp only [Nat.add_assoc]
      rfl
  · obtain ⟨-, ⟨hlow, -, -⟩, -⟩ := hs
    have hpin : s.pin = false := hlow (by simp [hp])
    have hstep := step_served hr (.inl ⟨hreq, hie⟩)
    refine ⟨_, hstep, hpin ▸ rfl, fun bytes => ?_⟩
    show runs (Trace.push s.trace s.pin k ++ _) = _
    rw [hpin, runs_push_transmitTrace]

/-- Settles O33: a RISE of the invariant starts a calm cell with the pin low, and Runs keeps the cycles. -/
theorem cellDependsOnItsBitAlone : Obligations.CellDependsOnItsBitAlone := by
  intro s hi hn hr hp
  obtain ⟨hpin, hie, -⟩ := (inv_low (.inl hp)).1 hi
  obtain ⟨t, segs, hrun, htr, hruns, hlow, hshift⟩ := runSteps_cell ⟨hr, hn, hie⟩ hp hpin
  refine ⟨t, segs, hrun, htr, hruns, ?_, hlow, hshift⟩
  rw [← total_runs, hruns, total_runs, total_cellTrace]

end Sys2Proof.Machine

/-! PROOFS. What each operation of a TRANSMIT does and costs, and the commands, 40_transmit.md R101 to R110, R116, R119
(O19, O27, O17, O22, O23, O24, O25). -/

namespace Sys2Proof.Machine

/-- Settles O19: only the Host's step takes an action off its list, and a busy block makes none. -/
theorem busyBlockTakesNoCommand : Obligations.BusyBlockTakesNoCommand := by
  refine ⟨fun s t hp h => ?_, fun s n hp => ?_⟩
  · rcases step_cases h with ⟨r, -, rfl⟩ | ⟨k, rest, -, -, rfl⟩ | ⟨-, hidle, -⟩ | ⟨-, -, i, -, hx⟩
    · rfl
    · rfl
    · exact absurd hidle hp
    · obtain ⟨-, -, -, hhost, -⟩ := exec_frame hx
      exact hhost
  · exact ⟨exec_command_busy rfl hp, exec_command_busy rfl hp, decide_eq_false hp⟩

/-- Settles O27: every instruction emits its cost, and `Cfg.cost` names the field of each. -/
theorem everyOperationHasConstantCost : Obligations.EveryOperationHasConstantCost := by
  refine ⟨fun i s t h => ?_, fun c n => ⟨rfl, rfl⟩,
    fun c => ⟨rfl, rfl, rfl, rfl, rfl, rfl, rfl, rfl, rfl, rfl, rfl⟩⟩
  obtain ⟨htr, -, hnow⟩ := exec_emits h
  exact ⟨htr, hnow⟩

/-- Acceptance writes N itself to LEN when N is inside its field. -/
theorem acceptTransmit_eq {s : State} {n : Nat} (hn : n < 2 ^ s.cfg.lenBits) : s.acceptTransmit n =
    { s with len := n, idx := 0, phase := Phase.enter, line := s.line.use s.oe } := by
  rw [State.acceptTransmit, Nat.mod_eq_of_lt hn]

/-- Settles O17: acceptance in IDLE, by exec and by the step of a presented word; elsewhere the Encoder moves. -/
theorem transmitIsAccepted : Obligations.TransmitIsAccepted := by
  refine ⟨fun n s hn hp => ?_, fun s w rest n hu hp hh hd => ?_, fun s hu hp => ?_⟩
  · exact ⟨_, exec_transmit_idle hp n, rfl, acceptTransmit_eq hn⟩
  · have hn : n < 2 ^ s.cfg.lenBits := (decodeCommand_transmit hd).2
    have hx := exec_transmit_idle (s := s.inputsUsed.setHost rest) hp n
    exact ⟨_, (step_command hu hp hh hd).trans hx, acceptTransmit_eq hn⟩
  · rw [step_undisturbed hu, runStep, if_pos ((State.busy_eq_true s.inputsUsed).mpr hp)]

/-- Settles O22: LOADB's equation; the read primitive takes the byte that the Host has written. -/
theorem loadbTakesTheIndexedByte : Obligations.LoadbTakesTheIndexedByte := by
  refine ⟨rfl, fun s => ⟨_, exec_loadb s, rfl⟩, fun s b hread => ?_, fun s hi hp => ?_⟩
  · rw [State.fbByte, hread, Option.getD_some]
  · obtain ⟨-, -, hlt⟩ := (inv_loadb hp).1 hi
    exact hlt

/-- COND writes 0 to PIN when the current bit is 0. -/
theorem State.condPin_of_zero {s : State} (hb : s.currentBit = false) : s.condPin = false := by
  simp [State.condPin, hb]

/-- COND leaves PIN when the current bit is 1. -/
theorem State.condPin_of_one {s : State} (hb : s.currentBit = true) : s.condPin = s.pin := by
  simp [State.condPin, hb]

/-- Settles O23: the equations of RISE, COND and FALL, and the levels of R42 (b). -/
theorem driveStepsWriteThePin : Obligations.DriveStepsWriteThePin := by
  refine ⟨⟨rfl, rfl, rfl⟩, fun s => ⟨_, exec_rise s, rfl⟩, fun s hb => ⟨_, exec_cond s, ?_⟩,
    fun s hb => ⟨_, exec_cond s, ?_⟩, fun s => ⟨_, exec_fall s, rfl⟩, fun s hs => ?_, fun c => ⟨rfl, rfl⟩⟩
  · rw [State.condPin_of_zero hb]
    rfl
  · rw [State.condPin_of_one hb]
    rfl
  · obtain ⟨-, ⟨hlow, hhigh, hbit⟩, -⟩ := hs
    exact ⟨fun hp => hlow (by simp [hp]), fun hp => hhigh (by simp [hp]), fun hp => hbit (by simp [hp])⟩

/-- A latch hold that is given by what it has above RESET_CYC is a reset gap (43_timing_profile.md R160). -/
theorem V8_of_tLatch (c : Cfg) (k : Nat) : ({ c with tLatch := c.resetCyc + k } : Cfg).V8 := Nat.le_add_right ..

/-- Settles O24: the equations of the holds, and the levels of R42 (b). -/
theorem holdsOnlyLetTimePass : Obligations.HoldsOnlyLetTimePass := by
  refine ⟨⟨rfl, rfl, rfl, rfl, V8_of_tLatch Config.buildButLatch _⟩, fun s => ⟨_, exec_holdb s, rfl⟩,
    fun s => ⟨_, exec_holdd s, rfl⟩, fun s => ⟨_, exec_holdf s, rfl⟩,
    fun s => ⟨_, exec_holdr s, rfl⟩, fun s hs => ?_⟩
  obtain ⟨-, ⟨hlow, hhigh, hbit⟩, -⟩ := hs
  refine ⟨fun hp => hhigh (by simp [hp]), fun hp => hbit (by simp [hp]), fun hp => hlow ?_⟩
  rcases hp with hp | hp <;> simp [hp]

/-- NEXT while bits remain (40_transmit.md R110). -/
theorem exec_next_bit {s : State} (hb : s.bitcnt - 1#4 ≠ 0#4) :
    exec .next s = .next ((s.spend s.cfg.cLoop).shiftOut.goto Phase.rise) := by
  rw [exec_next, if_pos (s.bitsRemain_iff.mpr hb)]

/-- NEXT at the end of a byte (R110). -/
theorem exec_next_byte {s : State} (hb : s.bitcnt - 1#4 = 0#4) :
    exec .next s = .next ((s.spend s.cfg.cLoop).shiftOut.advance.goto s.afterByte) := by
  rw [exec_next, if_neg fun h => s.bitsRemain_iff.mp h hb]

/-- Settles O25: NEXT's equation in each case; below LEN, which fits its field, IDX + 1 does not wrap. -/
theorem nextAdvancesThePosition : Obligations.NextAdvancesThePosition := by
  refine ⟨rfl, fun s hb => ⟨_, exec_next_bit hb, rfl⟩, fun s hb => ⟨_, exec_next_byte hb, ?_⟩,
    fun s hs ht hp => Nat.mod_eq_of_lt ?_, fun s hs hp => ?_, fun b j hj => getLsbD_shiftLeft_seven b hj,
    shiftLeft_eight⟩
  · rw [State.afterByte_eq, ← hb]
    rfl
  · obtain ⟨-, -, -, hposition⟩ := hs
    obtain ⟨⟨hlen, -⟩, -⟩ := ht
    obtain ⟨-, -, hlt⟩ := hposition (by simp [hp])
    omega
  · obtain ⟨-, ⟨hlow, -, -⟩, -, hposition⟩ := hs
    obtain ⟨h1, h8, -⟩ := hposition (by simp [hp])
    exact ⟨hlow (by simp [hp]), h1, h8⟩

end Sys2Proof.Machine

/-! PROOFS. The edges of a TRANSMIT's waveform, 40_transmit.md R115 (O38). -/

namespace Sys2Proof.Machine

/-! Edges of a list of runs. -/

/-- A run of one level before the runs only moves the edges to the other level. -/
theorem edgesTo_consRun_other {l m : Level} (h : m ≠ l) (start k : Nat) (r : Trace) :
    edgesTo l start (consRun (m, k) r) = edgesTo l (start + k) r := by
  by_cases hk : k = 0
  · simp [hk]
  match r with
  | [] => simp [consRun, hk, edgesTo, h]
  | (n, c) :: rest =>
    by_cases hn : m = n
    · subst hn
      simp [consRun, hk, edgesTo, h, Nat.add_assoc]
    · simp [consRun, hk, hn, edgesTo, h]

/-- No run of level `l` is first. -/
def startsOff (l : Level) (r : Trace) : Prop := ∀ k, r.head? ≠ some (l, k)

/-- Before runs of which none of its level is first a segment is a run of its own. -/
theorem consRun_startsOff {l : Level} {r : Trace} (hr : startsOff l r) {k : Nat} (hk : k ≠ 0) :
    consRun (l, k) r = (l, k) :: r := by
  match r with
  | [] => simp [consRun, hk]
  | (m, c) :: rest =>
    have hm : l ≠ m := fun h => hr c (by simp [h])
    simp [consRun, hk, hm]

/-- A segment of another level is first, or part of what is first, if it is not empty. -/
theorem startsOff_consRun {l m : Level} (h : m ≠ l) {k : Nat} {r : Trace} (hr : k ≠ 0 ∨ startsOff l r) :
    startsOff l (consRun (m, k) r) := by
  by_cases hk : k = 0
  · rw [hk, consRun_zero]
    exact hr.resolve_left (absurd hk)
  intro j
  match r with
  | [] => simp [consRun, hk, h]
  | (n, c) :: rest =>
    by_cases hn : m = n
    · simpa [consRun, hk, hn] using fun h' : n = l => absurd (hn.trans h') h
    · simp [consRun, hk, hn, h]

/-- A low run that begins the line is no falling edge behind its start. -/
theorem fallingEdges_consRun_low {r : Trace} (hr : startsOff false r) (k : Nat) :
    (edgesTo false 0 (consRun (false, k) r)).filter (0 < ·) = (edgesTo false k r).filter (0 < ·) := by
  by_cases hk : k = 0
  · rw [hk, consRun_zero]
  · simp [consRun_startsOff hr hk, edgesTo]

/-! The runs of a row of cells. -/

/-- The low cycles of a cell behind its high run. -/
def tailOf (c : Cfg) (b : Bool) : Nat := c.tcell - c.cRise - c.th b

/-- Lead, high run and tail are the cell. -/
theorem cell_parts (c : Cfg) (b : Bool) : c.cRise + c.th b + tailOf c b = c.tcell := by
  have hle := cRise_add_th_le_tcell c b
  rw [tailOf]
  omega

/-- `k` low cycles, the cells of the bits, and `e` low cycles. -/
def lowCells (c : Cfg) (e k : Nat) (bits : List Bool) : Trace :=
  (false, k) :: (bits.flatMap (cellTrace c) ++ [(false, e)])

theorem runs_lowCells_nil (c : Cfg) (e k : Nat) : runs (lowCells c e k []) = consRun (false, k + e) [] :=
  consRun_merge false k e []

/-- The lead of the first cell joins the low cycles before it, and its tail those behind it. -/
theorem runs_lowCells_cons_merged (c : Cfg) (e k : Nat) (b : Bool) (bits : List Bool) :
    runs (lowCells c e k (b :: bits)) =
      consRun (false, k + c.cRise) (consRun (true, c.th b) (runs (lowCells c e (tailOf c b) bits))) := by
  rw [← consRun_merge]
  rfl

/-- Every cell has a high run, and between two of them the line is low (43_timing_profile.md V4 to V6). -/
def cellsApart (c : Cfg) : Prop := ∀ b, c.th b ≠ 0 ∧ tailOf c b + c.cRise ≠ 0

theorem cellsApart_of_valid {c : Cfg} (h4 : c.V4) (h5 : c.V5) (h6 : c.V6) : cellsApart c := by
  intro b
  have hparts := cell_parts c b
  have hcell : c.tcell = c.th1 + c.tl1 := by simp only [Cfg.tcell, Cfg.th1, Cfg.tl1]; omega
  have hle : c.th b ≤ c.th1 := by cases b; exacts [h5.le, le_refl _]
  have hpos : c.th0 ≤ c.th b := by cases b; exacts [le_refl _, h5.le]
  constructor <;> omega

section
variable {c : Cfg} (ha : cellsApart c) (e : Nat)
include ha

/-- Behind a high run the row of the other cells does not begin high. -/
theorem startsOff_lowCells (b : Bool) (bits : List Bool) : startsOff true (runs (lowCells c e (tailOf c b) bits)) := by
  cases bits with
  | nil =>
    rw [runs_lowCells_nil]
    exact startsOff_consRun (by decide) (.inr (by simp [startsOff]))
  | cons b' bits =>
    rw [runs_lowCells_cons_merged]
    exact startsOff_consRun (by decide) (.inl (ha b).2)

/-- The runs of a row of cells: the low cycles up to the first high run, that run, and the row from there. -/
theorem runs_lowCells_cons (k : Nat) (b : Bool) (bits : List Bool) :
    runs (lowCells c e k (b :: bits)) =
      consRun (false, k + c.cRise) ((true, c.th b) :: runs (lowCells c e (tailOf c b) bits)) := by
  rw [runs_lowCells_cons_merged, consRun_startsOff (startsOff_lowCells ha e b bits) (ha b).1]

/-- The rising edges of a row of cells that comes after `k` low cycles. -/
theorem edgesTo_true_lowCells (start k : Nat) (bits : List Bool) :
    edgesTo true start (runs (lowCells c e k bits)) =
      (List.range bits.length).map fun j => start + k + j * c.tcell + c.cRise := by
  induction bits generalizing start k with
  | nil =>
    rw [runs_lowCells_nil, edgesTo_consRun_other (by decide)]
    rfl
  | cons b bits ih =>
    rw [runs_lowCells_cons ha, edgesTo_consRun_other (by decide), edgesTo, if_pos rfl, ih, List.length_cons,
      List.range_succ_eq_map, List.map_cons, List.map_map]
    congr 1
    · omega
    · refine List.map_congr_left fun j _ => ?_
      have hparts := cell_parts c b
      simp only [Function.comp, Nat.succ_mul]
      omega

/-- The falling edges of a row of cells whose first high run begins at `start`, if it ends low. -/
theorem edgesTo_false_cells (he : e ≠ 0) (start : Nat) (b : Bool) (bits : List Bool) :
    edgesTo false start ((true, c.th b) :: runs (lowCells c e (tailOf c b) bits)) =
      (b :: bits).zipIdx.map fun bk => start + bk.2 * c.tcell + c.th bk.1 := by
  induction bits generalizing start b with
  | nil =>
    have hend : tailOf c b + e ≠ 0 := by omega
    rw [runs_lowCells_nil, consRun_startsOff (by simp [startsOff]) hend]
    simp [edgesTo]
  | cons b' bits ih =>
    have hoff : startsOff false ((true, c.th b') :: runs (lowCells c e (tailOf c b') bits)) := by simp [startsOff]
    have hparts := cell_parts c b
    rw [runs_lowCells_cons ha, consRun_startsOff hoff (ha b).2, edgesTo, if_neg (by decide), edgesTo, if_pos rfl, ih,
      List.zipIdx_cons' (x := b), List.map_cons, List.map_map]
    congr 1
    · simp
    · refine List.map_congr_left fun bk _ => ?_
      simp only [Function.comp, Prod.map, id, Nat.succ_mul]
      omega

/-- The falling edges of a row of cells that comes after `k` low cycles and ends low. -/
theorem fallingEdges_lowCells (he : e ≠ 0) (k : Nat) (bits : List Bool) :
    fallingEdges (lowCells c e k bits) = bits.zipIdx.map fun bk => k + bk.2 * c.tcell + c.cRise + c.th bk.1 := by
  rw [fallingEdges]
  cases bits with
  | nil =>
    rw [runs_lowCells_nil, fallingEdges_consRun_low (by simp [startsOff])]
    rfl
  | cons b bits =>
    rw [runs_lowCells_cons ha, fallingEdges_consRun_low (by simp [startsOff]), edgesTo_false_cells ha e he,
      List.filter_eq_self.mpr]
    · refine List.map_congr_left fun bk _ => ?_
      omega
    · intro x hx
      obtain ⟨bk, -, rfl⟩ := List.mem_map.mp hx
      have hhigh := (ha bk.1).1
      exact decide_eq_true (by omega)

end

/-- Settles O38: a TRANSMIT is a row of cells between the low cycles of ENTER and those of EXIT. -/
theorem edgesOfTransmitDoNotDrift : Obligations.EdgesOfTransmitDoNotDrift := by
  intro c bytes h4 h5 h6
  have ha := cellsApart_of_valid h4 h5 h6
  constructor
  · have hrise := edgesTo_true_lowCells ha c.cExit 0 c.cEnter (bitsOfBytes bytes)
    simp only [Nat.zero_add, length_bitsOfBytes] at hrise
    exact hrise
  · have hend : runs [(false, c.cExit), (false, 1)] = runs [(false, c.cExit + 1)] :=
      consRun_merge false c.cExit 1 []
    have hruns := runs_append_congr hend ((false, c.cEnter) :: (bitsOfBytes bytes).flatMap (cellTrace c))
    have hfall := fallingEdges_lowCells ha (c.cExit + 1) (by omega) c.cEnter (bitsOfBytes bytes)
    have htrace : transmitTrace c bytes ++ [(false, 1)] =
        (false, c.cEnter) :: (bitsOfBytes bytes).flatMap (cellTrace c) ++ [(false, c.cExit), (false, 1)] := by
      simp [transmitTrace]
    rw [fallingEdges, htrace, hruns]
    exact hfall

end Sys2Proof.Machine

/-! PROOFS. The critical section: ENTER and EXIT, and what holds between their commits, 41_critical_section.md R131 to
R134 (O20, O21, O31, O32). -/

namespace Sys2Proof.Machine

/-- Settles O20: the equations of ENTER and of a served request, and the level of R42 (b). -/
theorem enterSavesAndClearsTheFlag : Obligations.EnterSavesAndClearsTheFlag := by
  refine ⟨rfl, fun s => ⟨_, exec_enter s, ?_⟩, fun s hs hp => ?_, fun s k rest _ hie hr hpre => ?_⟩
  · have hafter : s.afterEnter = if s.len = 0 then Phase.exit else Phase.loadb := by
      simp only [State.afterEnter_eq, Nat.pos_iff_ne_zero, ite_not]
    rw [hafter]
    rfl
  · obtain ⟨-, ⟨hlow, -, -⟩, -⟩ := hs
    exact hlow (by simp [hp])
  · exact step_served hr (.inl ⟨hpre, hie⟩)

/-- Settles O21: EXIT's equation, and R42 (b) and (c). -/
theorem exitRestoresTheFlag : Obligations.ExitRestoresTheFlag := by
  refine ⟨rfl, fun s => ⟨_, exec_exit s, rfl, rfl, rfl⟩, fun s hs hp => ?_⟩
  obtain ⟨-, ⟨hlow, -, -⟩, hmask, -⟩ := hs
  exact ⟨hlow (by simp [hp]), hmask (by simp [hp])⟩

/-! Between the commits of ENTER and EXIT (R133). -/

/-- PHASE is from LOADB to EXIT: ENTER has committed and EXIT has not. -/
def State.guarded (s : State) : Prop := 2 ≤ s.phase.toNat ∧ s.phase.toNat ≤ 10

theorem State.guarded.ne_idle {s : State} (hg : s.guarded) : s.phase ≠ Phase.idle := fun hp => by
  simp [State.guarded, hp] at hg

theorem guarded_afterEnter {s t : State} (hp : t.phase = s.afterEnter) : t.guarded := by
  rw [State.guarded, hp, State.afterEnter_eq]
  split <;> decide

theorem guarded_afterByte {s t : State} (hp : t.phase = s.afterByte) : t.guarded := by
  rw [State.guarded, hp, State.afterByte_eq]
  split <;> decide

/-- A code from 1 to 11 is an operation (10_state.md R22). -/
theorem decodePhase_legal {p : PhaseCode} (h1 : 1 ≤ p.toNat) (h11 : p.toNat ≤ 11) : ∃ i, decodePhase p = .instr i := by
  unfold decodePhase
  generalize p.toNat = c at h1 h11
  interval_cases c <;> exact ⟨_, rfl⟩

/-- No operation from LOADB to NEXT leads out of the critical section. -/
theorem exec_guarded {i : Instr} {s t : State} (hd : decodePhase s.phase = .instr i) (hg : s.guarded)
    (hne : s.phase ≠ Phase.exit) (h : exec i s = .next t) : t.guarded := by
  have hp := (phase_of_decode 0 hd).2
  cases exec_executes h with
  | waits => exact hg
  | transmit n hidle => exact absurd hidle hg.ne_idle
  | latch hidle => exact absurd hidle hg.ne_idle
  | enter => exact guarded_afterEnter rfl
  | nextByte => exact guarded_afterByte rfl
  | exit => exact absurd hp hne
  | holdr => simp [State.guarded, hp, encode] at hg
  | _ => simp [State.guarded]

/-- With IE = 0, no reset at this point and no source that ignores IE, nothing disturbs the step (60_exceptions.md R197). -/
theorem undisturbedNow_of_masked {s : State} (hr : s.rst.head? ≠ some true) (hn : s.P_NoUnmaskable)
    (hie : s.ie = false) : s.undisturbedNow := by
  have hc : (s.setRst []).calm := ⟨List.forall_mem_nil _, hn, hie⟩
  obtain ⟨-, hpreemptor⟩ := hc.undisturbedNow
  exact ⟨hr, hpreemptor⟩

/-- IE is 0 in the critical section (10_state.md R42 (c)). -/
theorem ie_of_guarded {s : State} (hi : s.Inv) (hg : s.guarded) : s.ie = false := by
  obtain ⟨⟨-, -, hmask, -⟩, -⟩ := hi
  exact hmask hg

/-- Settles O31: R42 (c) masks the request, PHASE's code is an operation, and the invariant holds after it. -/
theorem noPreemptionInsideTransmit : Obligations.NoPreemptionInsideTransmit := by
  intro s hi h2 h10 hn hr
  have hg : s.guarded := ⟨h2, h10⟩
  have hie := ie_of_guarded hi hg
  have hundisturbed := undisturbedNow_of_masked hr hn hie
  obtain ⟨i, hd⟩ := decodePhase_legal (p := s.phase) (by omega) (by omega)
  obtain ⟨t, hx⟩ := exec_answers i s.inputsUsed
  have hstep : step s = .next t := (step_operation hundisturbed hg.ne_idle hd).trans hx
  obtain ⟨-, -, step_busy⟩ := transmitIsAccepted
  refine ⟨hie, step_busy s hundisturbed hg.ne_idle, t, hstep, fun hne => ?_⟩
  have hgt : t.guarded := exec_guarded (s := s.inputsUsed) hd hg hne hx
  exact ⟨ie_of_guarded (inv_keptByMoves.step hi hstep) hgt, hgt⟩

/-! What a TRANSMIT restores (R134). -/

/-- The TRANSMIT in progress will make `v` of IE when its EXIT commits, or in IDLE it has. -/
def State.owes (s : State) (v : Bool) : Prop :=
  s.phase.toNat ≤ 10 ∧ (s.phase = Phase.idle → s.ie = v) ∧ s.restores v

section
variable {s t : State} {v : Bool}

theorem owes_idle (hp : s.phase = Phase.idle) : s.owes v ↔ s.ie = v := by
  simp [State.owes, State.restores, hp]

theorem owes_enter (hp : s.phase = Phase.enter) : s.owes v ↔ s.ie = v := by
  simp [State.owes, State.restores, hp]

theorem owes_guarded (hg : s.guarded) : s.owes v ↔ s.ieSaved = v := by
  have hne : s.phase ≠ Phase.enter := fun hp => by simp [State.guarded, hp] at hg
  have hidle := hg.ne_idle
  obtain ⟨h2, h10⟩ := hg
  simp [State.owes, State.restores, hne, hidle, h2, h10]

/-- ENTER hands the value from IE to IE_SAVED and EXIT hands it back; no operation between writes IE_SAVED. -/
theorem exec_keeps_owes {i : Instr} (hd : decodePhase s.phase = .instr i) (h : exec i s = .next t) (ho : s.owes v) :
    t.owes v := by
  have hp := (phase_of_decode 0 hd).2
  cases exec_executes h with
  | waits => exact ho
  | transmit n hidle => exact absurd hidle (decodePhase_ne_idle hd)
  | latch hidle => exact absurd hidle (decodePhase_ne_idle hd)
  | enter => exact (owes_guarded (guarded_afterEnter rfl)).2 ((owes_enter hp).1 ho)
  | exit => exact (owes_idle rfl).2 ((owes_guarded (by simp [State.guarded, hp, encode])).1 ho)
  | holdr => simp [State.owes, hp, encode] at ho
  | loadb | rise | holdb | cond | holdd | fall | holdf | nextBit | nextByte =>
    have hg : s.guarded := by simp [State.guarded, hp, encode]
    have hgt := exec_guarded hd hg (by rw [hp]; decide) h
    exact (owes_guarded hgt).2 ((owes_guarded hg).1 ho)

/-- While the command is in progress every step but a reset keeps what it owes, a theft of cycles too. -/
theorem step_keeps_owes (hr : s.noReset) (hb : s.phase ≠ Phase.idle) (h : step s = .next t) (ho : s.owes v) :
    t.owes v := by
  rcases step_cases h with ⟨r, hl, -⟩ | ⟨k, rest, -, -, rfl⟩ | ⟨-, hidle, -⟩ | ⟨-, -, i, hd, hx⟩
  · exact absurd (hr true (hl ▸ List.mem_cons_self)) (by decide)
  · exact ho
  · exact absurd hidle hb
  · exact exec_keeps_owes (s := s.inputsUsed) hd hx ho

theorem write_rst (hw : HostWrites s t) : t.rst = s.rst := by cases hw <;> rfl

/-- A step uses up one level of `rst`. -/
theorem step_rst (h : step s = .next t) : t.rst = s.rst.tail := by
  rcases step_cases h with ⟨r, hl, rfl⟩ | ⟨k, rest, -, -, rfl⟩ | ⟨-, -, hh⟩ | ⟨-, -, i, -, hx⟩
  · rw [hl]
    rfl
  · rfl
  · obtain ⟨rest, ⟨k, rfl⟩ | hw | ⟨i, -, hx⟩⟩ := hostStep_moves hh
    · rfl
    · exact write_rst hw
    · obtain ⟨-, -, -, -, -, hrst, -⟩ := exec_frame hx
      exact hrst
  · obtain ⟨-, -, -, -, -, hrst, -⟩ := exec_frame hx
    exact hrst

theorem step_noReset (hr : s.noReset) (h : step s = .next t) : t.noReset :=
  fun r hm => hr r (List.mem_of_mem_tail (step_rst h ▸ hm))

/-- A run that no reset breaks keeps what the TRANSMIT owes up to the first state in IDLE. -/
theorem run_keeps_owes {k : Nat} (hr : s.noReset) (ho : s.owes v)
    (hbusy : ∀ m u, m < k → runSteps m s = .next u → u.phase ≠ Phase.idle) (h : runSteps k s = .next t) : t.owes v := by
  induction k generalizing s with
  | zero => cases h; exact ho
  | succ k ih =>
    obtain ⟨u, hu, hrun⟩ := runSteps_succ_iff.mp h
    have hb : s.phase ≠ Phase.idle := hbusy 0 s k.succ_pos rfl
    exact ih (step_noReset hr hu) (step_keeps_owes hr hb hu ho)
      (fun m w hm hw => hbusy (m + 1) w (Nat.succ_lt_succ hm) ((runSteps_succ hu).trans hw)) hrun

end

/-- The undisturbed step in which the Host presents TRANSMIT(N) accepts it (40_transmit.md R101). -/
theorem step_accepts {s : State} {w n : Nat} {rest : List HostStep} (hu : s.undisturbedNow)
    (hp : s.phase = Phase.idle) (hh : s.host = .command w :: rest)
    (hd : decodeCommand s.cfg.lenBits w = .instr (.transmit n)) : step s = .next (s.accepted rest n) :=
  (step_command hu hp hh hd).trans (exec_transmit_idle (s := s.inputsUsed.setHost rest) hp n)

/-- Settles O32: from its acceptance on the TRANSMIT owes the value that IE has then; LATCH and HOLDR do not write IE. -/
theorem transmitRestoresTheInterruptFlag : Obligations.TransmitRestoresTheInterruptFlag := by
  refine ⟨fun s w rest n k t hu hr hp hh hd hbusy hk hrun hidle => ?_, fun s t h => ?_⟩
  · obtain ⟨k, rfl⟩ := Nat.exists_eq_add_of_le' hk
    have haccept := step_accepts hu hp hh hd
    rw [runSteps_succ haccept] at hrun
    have howes : (s.accepted rest n).owes s.ie := (owes_enter rfl).2 rfl
    refine (owes_idle hidle).1 (run_keeps_owes (step_noReset hr haccept) howes (fun m u hm hmu => ?_) hrun)
    exact hbusy (m + 1) u (Nat.le_add_left 1 m) (Nat.succ_lt_succ hm) ((runSteps_succ haccept).trans hmu)
  · rcases h with h | h <;> exact exec_ie h (by simp) (by simp)

end Sys2Proof.Machine

/-! PROOFS. LATCH: its acceptance and the low line it holds, 42_latch.md R141 to R143 (O18, O39). -/

namespace Sys2Proof.Machine

/-- Settles O18: acceptance in IDLE, by exec and by the step of a presented word; HOLDR is a command in progress. -/
theorem latchIsAccepted : Obligations.LatchIsAccepted := by
  refine ⟨fun s hp => ?_, fun s w rest hu hp hh hd => ?_, fun s t hp hr h => ?_⟩
  · exact ⟨_, exec_latch_idle hp, rfl, rfl, rfl⟩
  · have hx := exec_latch_idle (s := s.inputsUsed.setHost rest) hp
    exact ⟨_, (step_command hu hp hh hd).trans hx, rfl⟩
  · have hbusy : s.phase ≠ Phase.idle := by rw [hp]; decide
    obtain ⟨hhost, -⟩ := step_busy_frame hbusy hr h
    exact hhost

/-! Time on a low line. -/

/-- Only low segments lead from the trace `t` to the trace `u`, and they have at least `n` cycles. -/
def Trace.goesOnLow (t u : Trace) (n : Nat) : Prop :=
  ∃ segs, u = t ++ segs ∧ (∀ seg ∈ segs, seg.1 = false) ∧ n ≤ Trace.total segs

theorem Trace.goesOnLow_push (t : Trace) (k : Nat) : t.goesOnLow (t.push false k) k := by
  by_cases hk : k = 0
  · exact ⟨[], by simp [hk]⟩
  · exact ⟨[(false, k)], by simp [Trace.push, hk]⟩

/-- Two stretches of low time are one. -/
theorem Trace.goesOnLow.trans {t u v : Trace} {m n : Nat} (h : t.goesOnLow u m) (h' : u.goesOnLow v n) :
    t.goesOnLow v (m + n) := by
  obtain ⟨segs, rfl, hlow, htotal⟩ := h
  obtain ⟨segs', rfl, hlow', htotal'⟩ := h'
  refine ⟨segs ++ segs', List.append_assoc .., List.forall_mem_append.mpr ⟨hlow, hlow'⟩, ?_⟩
  rw [Trace.total_append]
  omega

theorem Trace.goesOnLow.mono {t u : Trace} {m n : Nat} (h : t.goesOnLow u n) (hm : m ≤ n) : t.goesOnLow u m := by
  obtain ⟨segs, htrace, hlow, htotal⟩ := h
  exact ⟨segs, htrace, hlow, hm.trans htotal⟩

/-- Segments of one level are one segment, as far as Runs can tell. -/
theorem runs_of_forall_level {l : Level} {segs : Trace} (h : ∀ seg ∈ segs, seg.1 = l) :
    runs segs = runs [(l, Trace.total segs)] := by
  induction segs with
  | nil => exact (consRun_zero l []).symm
  | cons seg segs ih =>
    obtain ⟨m, k⟩ := seg
    obtain ⟨rfl, hsegs⟩ := List.forall_mem_cons.mp h
    rw [runs_cons, ih hsegs, Trace.total_cons]
    exact consRun_merge m k (Trace.total segs) []

/-- With a low segment behind them the runs end in a low run at least as long. -/
theorem getLast?_snocRun_low (r : Trace) {k : Nat} (hk : k ≠ 0) :
    ∃ n, (snocRun r (false, k)).getLast? = some (false, n) ∧ k ≤ n := by
  rcases r.eq_nil_or_concat with rfl | ⟨q, ⟨m, c⟩, rfl⟩
  · exact ⟨k, by simp [snocRun, consRun, hk]⟩
  · cases m
    · exact ⟨c + k, by simp [snocRun_concat _ _ _ _ hk]⟩
    · exact ⟨k, by simp [snocRun_concat _ _ _ _ hk]⟩

/-- A trace whose last segments are low ends in a low run that has all their cycles. -/
theorem endsInGap_append_low (t : Trace) {segs : Trace} {gap : Nat} (h : ∀ seg ∈ segs, seg.1 = false)
    (hgap : gap ≤ Trace.total segs) (hpos : Trace.total segs ≠ 0) : endsInGap gap (t ++ segs) = true := by
  obtain ⟨n, hlast, hn⟩ := getLast?_snocRun_low (runs t) hpos
  have hruns : runs (t ++ segs) = snocRun (runs t) (false, Trace.total segs) := by
    rw [runs_append_congr (runs_of_forall_level h) t, runs_append_singleton]
  rw [endsInGap, hruns, hlast]
  exact decide_eq_true (hgap.trans hn)

/-! HOLDR (42_latch.md R142). -/

/-- A step in HOLDR that is no reset is a theft of cycles, which leaves it in HOLDR, or HOLDR itself. -/
theorem step_holdr_cases {s t : State} (hp : s.phase = Phase.holdr) (hr : s.noReset) (h : step s = .next t) :
    t.cfg = s.cfg ∧ t.pin = s.pin ∧
      ((t.phase = Phase.holdr ∧ ∃ k, t.trace = s.trace.push s.pin k) ∨
        (t.phase = Phase.idle ∧ t.trace = s.trace.push s.pin s.cfg.tLatch)) := by
  rcases step_cases h with ⟨r, hl, -⟩ | ⟨k, rest, -, -, rfl⟩ | ⟨-, hidle, -⟩ | ⟨hu, -⟩
  · exact absurd (hr true (hl ▸ List.mem_cons_self)) (by decide)
  · exact ⟨rfl, rfl, .inl ⟨hp, k, rfl⟩⟩
  · exact absurd (hp.symm.trans hidle) (by decide)
  · cases exec_of_step hu h .holdr hp rfl
    exact ⟨rfl, rfl, .inr ⟨rfl, rfl⟩⟩

/-- From HOLDR on a low line only low time passes up to the first return to IDLE, T_LATCH cycles of it or more. -/
theorem run_holdr_low {k : Nat} {s t : State} (hp : s.phase = Phase.holdr) (hpin : s.pin = false) (hr : s.noReset)
    (hbusy : ∀ m u, m < k → runSteps m s = .next u → u.phase ≠ Phase.idle) (h : runSteps k s = .next t)
    (hidle : t.phase = Phase.idle) : t.pin = false ∧ s.trace.goesOnLow t.trace s.cfg.tLatch := by
  induction k generalizing s with
  | zero =>
    cases h
    exact absurd (hp.symm.trans hidle) (by decide)
  | succ k ih =>
    obtain ⟨u, hu, hrun⟩ := runSteps_succ_iff.mp h
    obtain ⟨hcfg, hpin', ⟨hp', j, htrace⟩ | ⟨hp', htrace⟩⟩ := step_holdr_cases hp hr hu
    · have hbusy' : ∀ m v, m < k → runSteps m u = .next v → v.phase ≠ Phase.idle := fun m v hm hv =>
        hbusy (m + 1) v (Nat.succ_lt_succ hm) ((runSteps_succ hu).trans hv)
      obtain ⟨hlow, hrest⟩ := ih hp' (hpin'.trans hpin) (step_noReset hr hu) hbusy' hrun
      rw [htrace, hpin, hcfg] at hrest
      exact ⟨hlow, ((s.trace.goesOnLow_push j).trans hrest).mono (Nat.le_add_left ..)⟩
    · have hk : k = 0 := by
        by_contra hne
        exact hbusy 1 u (by omega) ((runSteps_succ hu).trans (runSteps_zero u)) hp'
      subst hk
      cases hrun
      rw [htrace, hpin]
      exact ⟨hpin'.trans hpin, s.trace.goesOnLow_push _⟩

/-- `cyc_up` of a duration is the least number of cycles that last it (43_timing_profile.md R152). -/
theorem cycUp_le_iff {c : Cfg} (hf : 0 < c.fHz) (t n : Nat) : c.cycUp t ≤ n ↔ (t : Rat) ≤ c.ns n := by
  have hf' : (0 : Rat) < c.fHz := Nat.cast_pos.mpr hf
  have hnat : c.cycUp t ≤ n ↔ t * c.fHz ≤ n * 10 ^ 9 := by
    rw [Cfg.cycUp]
    generalize t * c.fHz = x
    omega
  rw [hnat, Cfg.ns, le_div_iff₀ hf']
  exact_mod_cast Iff.rfl

/-- Settles O39: from HOLDR the line goes on low for T_LATCH or more cycles; V8 makes of them a reset gap. -/
theorem latchHoldsTheLineLow : Obligations.LatchHoldsTheLineLow := by
  intro s t k hp hpin hr hbusy hrun hidle
  obtain ⟨hlow, segs, htrace, hsegs, htotal⟩ := run_holdr_low hp hpin hr hbusy hrun hidle
  refine ⟨segs, htrace, hsegs, htotal, hlow, fun h8 => ?_⟩
  have hgap : s.cfg.resetCyc ≤ Trace.total segs := h8.trans htotal
  refine ⟨hgap, fun hf => (cycUp_le_iff hf _ _).mp hgap, fun hpos => ?_⟩
  rw [htrace]
  exact endsInGap_append_low s.trace hsegs hgap (by omega)

end Sys2Proof.Machine

/-! PROOFS. The timing profile, 43_timing_profile.md: the conversions of R152, RESET_CYC, the derived profile of R153, the
decoder's threshold and the reference configurations (O48, O49, O50, O40, O51). -/

namespace Sys2Proof.Machine

/-! The conversions (R152). -/

/-- `cyc` of a duration is the number of cycles within half a cycle of it, and the greater one at a tie. -/
theorem cyc_eq_iff (c : Cfg) (t n : Nat) : c.cyc t = n ↔
    (n : Rat) - 1 / 2 ≤ (t : Rat) * c.fHz / 10 ^ 9 ∧ (t : Rat) * c.fHz / 10 ^ 9 < (n : Rat) + 1 / 2 := by
  have hnat : c.cyc t = n ↔ 2 * n * 10 ^ 9 ≤ 2 * (t * c.fHz) + 10 ^ 9 ∧
      2 * (t * c.fHz) < 2 * n * 10 ^ 9 + 10 ^ 9 := by
    rw [Cfg.cyc, Nat.mul_assoc]
    generalize t * c.fHz = x
    omega
  rw [hnat, le_div_iff₀ (by norm_num), div_lt_iff₀ (by norm_num), ← @Nat.cast_le Rat, ← @Nat.cast_lt Rat]
  push_cast
  refine and_congr ⟨fun h => ?_, fun h => ?_⟩ ⟨fun h => ?_, fun h => ?_⟩ <;> linarith

/-- `cyc_down` of a duration is the greatest number of cycles that last no longer. -/
theorem le_cycDown_iff {c : Cfg} (hf : 0 < c.fHz) (t n : Nat) : n ≤ c.cycDown t ↔ c.ns n ≤ (t : Rat) := by
  have hf' : (0 : Rat) < c.fHz := Nat.cast_pos.mpr hf
  rw [Cfg.cycDown, Nat.le_div_iff_mul_le (by norm_num), Cfg.ns, div_le_iff₀ hf']
  exact_mod_cast Iff.rfl

/-- Settles O48: the three conversions are quotients of naturals, rounded to the nearest, up and down. -/
theorem conversionsRoundAsStated : Obligations.ConversionsRoundAsStated := fun c t hf =>
  ⟨fun _ => rfl, rfl, cyc_eq_iff c t, cycUp_le_iff hf t, le_cycDown_iff hf t⟩

/-! RESET_CYC (R160). -/

/-- RESET_CYC depends on the clock and on TRESET_NS alone. -/
theorem resetCyc_eq {c : Cfg} {t f : Nat} (ht : c.tresetNs = t) (hf : c.fHz = f) :
    c.resetCyc = (t * f + (10 ^ 9 - 1)) / 10 ^ 9 := by
  rw [Cfg.resetCyc, Cfg.cycUp, ht, hf]

theorem resetCyc_of_8MHz {c : Cfg} (ht : c.tresetNs = 50000) (hf : c.fHz = 8000000) : c.resetCyc = 400 :=
  (resetCyc_eq ht hf).trans (by norm_num)

theorem resetCyc_of_16MHz {c : Cfg} (ht : c.tresetNs = 50000) (hf : c.fHz = 16000000) : c.resetCyc = 800 :=
  (resetCyc_eq ht hf).trans (by norm_num)

/-- Settles O49: RESET_CYC is `cyc_up` of TRESET_NS, and the build's T_LATCH adds to it. -/
theorem resetCyclesAreTheLeastThatLast : Obligations.ResetCyclesAreTheLeastThatLast :=
  ⟨fun c k hf => cycUp_le_iff hf c.tresetNs k, V8_of_tLatch Config.buildButLatch Config.tLatchAboveReset,
    fun c ht => ⟨resetCyc_of_8MHz ht, resetCyc_of_16MHz ht, fun hf => (resetCyc_eq ht hf).trans (by norm_num),
      fun hf => (resetCyc_eq ht hf).trans (by norm_num)⟩⟩

/-! The nominal durations in cycles, at the clocks of R154 and R165. -/

/-- The rounded nominals: T0H_NS, T1H_NS and TBIT_NS in cycles. -/
def nominalCycles (c : Cfg) : Nat × Nat × Nat := (c.cyc c.t0hNs, c.cyc c.t1hNs, c.cyc c.tbitNs)

theorem nominalCycles_eq_iff {c : Cfg} {h0 h1 cell : Nat} :
    nominalCycles c = (h0, h1, cell) ↔ c.cyc c.t0hNs = h0 ∧ c.cyc c.t1hNs = h1 ∧ c.cyc c.tbitNs = cell := by
  simp only [nominalCycles, Prod.mk.injEq]

theorem cyc_of_8MHz {c : Cfg} (hf : c.fHz = 8000000) : (c.cyc 400, c.cyc 850, c.cyc 1250) = (3, 7, 10) := by
  simp [Cfg.cyc, hf]

theorem cyc_of_16MHz {c : Cfg} (hf : c.fHz = 16000000) : (c.cyc 400, c.cyc 850, c.cyc 1250) = (6, 14, 20) := by
  simp [Cfg.cyc, hf]

theorem cyc_of_1MHz {c : Cfg} (hf : c.fHz = 1000000) : (c.cyc 400, c.cyc 850, c.cyc 1250) = (0, 1, 1) := by
  simp [Cfg.cyc, hf]

/-! The derived profile (R153, R154). -/

theorem th0_derive (c : Cfg) : c.derive.th0 = c.derivedBase + c.ovhH0 := rfl

theorem th1_derive (c : Cfg) : c.derive.th1 = c.derivedBase + c.derivedDelta + c.ovhH1 := by
  simp only [Cfg.th1, Cfg.derive, Cfg.ovhH1]
  omega

theorem tcell_derive (c : Cfg) :
    c.derive.tcell = c.derivedBase + c.derivedDelta + c.derivedFinal + c.ovhCell := by
  simp only [Cfg.tcell, Cfg.derive, Cfg.ovhCell]
  omega

/-- The derived profile from the nominals in cycles. -/
theorem derive_of_nominalCycles {c : Cfg} {h0 h1 cell : Nat} (h : nominalCycles c = (h0, h1, cell)) :
    c.derive = { c with
      base := h0 - c.ovhH0
      delta := h1 - c.ovhH1 - (h0 - c.ovhH0)
      final := cell - c.ovhCell - (h0 - c.ovhH0) - (h1 - c.ovhH1 - (h0 - c.ovhH0)) } := by
  obtain ⟨rfl, rfl, rfl⟩ := nominalCycles_eq_iff.mp h
  rfl

theorem V1_iff_of_nominalCycles {c : Cfg} {h0 h1 cell tcell : Nat} (h : nominalCycles c = (h0, h1, cell))
    (htcell : c.tcell = tcell) : c.V1 ↔ cell ≤ tcell + 1 ∧ tcell ≤ cell + 1 := by
  obtain ⟨-, -, hcell⟩ := nominalCycles_eq_iff.mp h
  rw [Cfg.V1, hcell, htcell]

/-- R154's first case: at 8 MHz the overheads of CFG_C make the cell one cycle too long. -/
theorem derive_cfgC_8MHz (c : Cfg) : ({ c.cfgC with fHz := 8000000 } : Cfg).derive =
    { c.cfgC with fHz := 8000000, base := 1, delta := 2, final := 0 } :=
  derive_of_nominalCycles (c := { c.cfgC with fHz := 8000000 }) (cyc_of_8MHz rfl)

/-- R154's second case: at 1 MHz the overheads of CFG_A alone are more than the nominals. -/
theorem derive_cfgA_1MHz (c : Cfg) : ({ c.cfgA with fHz := 1000000 } : Cfg).derive =
    { c.cfgA with fHz := 1000000, base := 0, delta := 0, final := 0 } :=
  derive_of_nominalCycles (c := { c.cfgA with fHz := 1000000 }) (cyc_of_1MHz rfl)

/-- Settles O50: each derived duration is its nominal less and then plus the same parts, so what a truncated subtraction
does not take is what the duration is too long by. -/
theorem derivedProfileHitsTheNominals : Obligations.DerivedProfileHitsTheNominals := by
  intro c
  have hbase : c.derive.base = c.derivedBase := rfl
  have hdelta : c.derive.delta = c.derivedDelta := rfl
  refine ⟨rfl, rfl, rfl, ?_, ?_, ?_, ⟨?_, ?_, ?_⟩, ?_, ?_⟩
  · rw [th0_derive]; exact tsub_add_cancel_iff_le
  · rw [th1_derive, hbase, Cfg.derivedDelta]; omega
  · rw [tcell_derive, hbase, hdelta, Cfg.derivedFinal]; omega
  · rw [th0_derive]; exact le_tsub_add
  · rw [th1_derive, Cfg.derivedDelta]; omega
  · rw [tcell_derive, Cfg.derivedFinal]; omega
  · rw [derive_cfgC_8MHz]
    intro d
    have hcyc : nominalCycles d = (3, 7, 10) := cyc_of_8MHz rfl
    exact ⟨hcyc, rfl, rfl, (V1_iff_of_nominalCycles (tcell := 11) hcyc rfl).mpr (by decide)⟩
  · rw [derive_cfgA_1MHz]
    intro d
    have hcyc : nominalCycles d = (0, 1, 1) := cyc_of_1MHz rfl
    exact ⟨hcyc, rfl, rfl, mt (V1_iff_of_nominalCycles (tcell := 3) hcyc rfl).mp (by decide)⟩

/-! The decoder's threshold (R162, R174). -/

theorem decodeBit_eq_true_iff (c : Cfg) (h : Nat) : decodeBit c h = true ↔ c.th0 + c.th1 < 2 * h := decide_eq_true_iff

theorem th1_eq (c : Cfg) : c.th1 = c.th0 + (c.delta + c.cFall) := Nat.add_assoc ..

/-- Settles O40: the sum of the symbols is twice a symbol, more or less their difference. -/
theorem thresholdTellsTheSymbolsApart : Obligations.ThresholdTellsTheSymbolsApart := by
  refine fun c => ⟨th1_eq c, ?_, fun h5 => ⟨?_, ?_⟩, decodeBit_eq_true_iff c⟩
  · omega
  · rw [← Bool.not_eq_true, decodeBit_eq_true_iff]; omega
  · rw [decodeBit_eq_true_iff]; omega

/-! The reference configurations (R165). -/

/-- At a multiple of 8 MHz, with the durations of CFG_A stretched by it, symbols and cell last what those of CFG_A do. -/
theorem ns_of_multiple_of_8MHz {c : Cfg} {k : Nat} (hk : 0 < k) (hf : c.fHz = k * 8000000)
    (hdur : (c.th0, c.th1, c.tcell) = (k * 3, k * 7, k * 10)) :
    (c.ns c.th0, c.ns c.th1, c.ns c.tcell) = (375, 875, 1250) := by
  have hk' : (k : Rat) ≠ 0 := Nat.cast_ne_zero.mpr hk.ne'
  have hns (n : Nat) : c.ns (k * n) = n * 125 := by
    rw [Cfg.ns, hf]
    push_cast
    field_simp
    ring
  simp only [Prod.mk.injEq] at hdur
  obtain ⟨h0, h1, hcell⟩ := hdur
  rw [h0, h1, hcell, hns, hns, hns]
  norm_num

/-- What R157 asks of the durations, said of their values: V1 of a cell that is its rounded nominal, and V4 to V8. -/
theorem timing_of_durations {c : Cfg} {h0 h1 cell l0 l1 reset latch : Nat}
    (hcyc : nominalCycles c = (h0, h1, cell))
    (hdur : (c.th0, c.th1, c.tcell, c.tl0, c.tl1) = (h0, h1, cell, l0, l1))
    (hreset : (c.resetCyc, c.tLatch) = (reset, latch))
    (hvalid : 1 ≤ h0 ∧ h0 < h1 ∧ 1 ≤ l1 ∧ l0 < reset ∧ reset ≤ latch) :
    c.V1 ∧ c.V4 ∧ c.V5 ∧ c.V6 ∧ c.V7 ∧ c.V8 := by
  obtain ⟨-, -, hcell⟩ := nominalCycles_eq_iff.mp hcyc
  simp only [Prod.mk.injEq] at hdur hreset
  omega

/-- Settles O51: each row follows from the clock's conversions and the given costs. -/
theorem referenceConfigurationsMatchTheTable : Obligations.ReferenceConfigurationsMatchTheTable := by
  intro c
  have hcycA : nominalCycles c.cfgA = (3, 7, 10) := cyc_of_8MHz rfl
  have hcycB : nominalCycles c.cfgB = (6, 14, 20) := cyc_of_16MHz rfl
  have hcycC : nominalCycles c.cfgC = (6, 14, 20) := cyc_of_16MHz rfl
  have hresetA : (c.cfgA.resetCyc, c.cfgA.tLatch) = (400, 400) := Prod.ext (resetCyc_of_8MHz rfl rfl) rfl
  have hresetB : (c.cfgB.resetCyc, c.cfgB.tLatch) = (800, 800) := Prod.ext (resetCyc_of_16MHz rfl rfl) rfl
  have hresetC : (c.cfgC.resetCyc, c.cfgC.tLatch) = (800, 800) := Prod.ext (resetCyc_of_16MHz rfl rfl) rfl
  refine ⟨⟨derive_of_nominalCycles hcycA, rfl, rfl, hcycA, rfl, rfl, rfl, ?_, hresetA, ?_⟩,
    ⟨derive_of_nominalCycles hcycB, rfl, rfl, hcycB, rfl, rfl, rfl, ?_, hresetB, ?_⟩,
    ⟨derive_of_nominalCycles hcycC, rfl, rfl, hcycC, rfl, rfl, rfl, ?_, hresetC, ?_⟩,
    fun b => by cases b <;> rfl, rfl, rfl, rfl⟩
  · exact ns_of_multiple_of_8MHz (k := 1) (by decide) rfl rfl
  · exact timing_of_durations (l0 := 7) (l1 := 3) hcycA rfl hresetA (by decide)
  · exact ns_of_multiple_of_8MHz (k := 2) (by decide) rfl rfl
  · exact timing_of_durations (l0 := 14) (l1 := 6) hcycB rfl hresetB (by decide)
  · exact ns_of_multiple_of_8MHz (k := 2) (by decide) rfl rfl
  · exact timing_of_durations (l0 := 14) (l1 := 6) hcycC rfl hresetC (by decide)

end Sys2Proof.Machine

/-! PROOFS. Commands with OE = 0, and the observation that they lose, 45_line_observation.md R186 (O46). -/

namespace Sys2Proof.Machine

/-- With OE = 0 an instruction that does not wait does the same to all but OE, its record and the ghost line. -/
theorem exec_undriven {i : Instr} {s t : State} (hc : i.format = .cmd → s.phase = Phase.idle)
    (h : exec i s = .next t) :
    exec i { s with oe := false } =
      .next { t with oe := false, oeTrace := s.oeTrace.push false (s.cfg.cost i), line := .lost } := by
  cases exec_executes h with
  | waits hi hb => exact absurd (hc hi) hb
  | transmit n hp => exact exec_transmit_idle (s := { s with oe := false }) hp n
  | latch hp => exact exec_latch_idle (s := { s with oe := false }) hp
  | nextBit hb => exact exec_next_bit (s := { s with oe := false }) (s.bitsRemain_iff.mp hb)
  | nextByte hb =>
    exact (exec_next { s with oe := false }).trans (if_neg (Bool.eq_false_iff.mp hb))
  | _ => rfl

theorem waveform_of_lost {s : State} (h : s.line = .lost) : s.waveform = none := by simp [State.waveform, h]

theorem rxBits_of_lost {s : State} (h : s.line = .lost) : s.rxBits = none := by simp [State.rxBits, h]

theorem waveform_of_defined {s : State} (h : s.line ≠ .lost) : s.waveform = some (runs s.trace) := by
  cases hl : s.line
  case lost => exact absurd hl h
  all_goals simp [State.waveform, hl]

/-- From the first latch of a frame of 3 NPIX bytes on RXBITS are R176's function. -/
theorem rxBits_of_defined {s : State} (h : s.line ≠ .lost) (hexact : latchedExact s.cfg s.trace = true) :
    s.rxBits = some (rxBitsOf s.cfg s.trace) := by
  cases hl : s.line
  case lost => exact absurd hl h
  all_goals simp [State.rxBits, hl, hexact]

theorem ledView_of_defined {s : State} (h : s.line ≠ .lost) :
    s.ledView = showFrames s.cfg 0 (.draw .powerUp) (lineFrames s.cfg s.trace) := by
  cases hl : s.line
  case lost => exact absurd hl h
  all_goals simp [State.ledView, hl]

/-- A command or a micro-operation leaves a lost observation lost, whatever OE is. -/
@[simp] theorem LineStatus.use_lost (oe : Bool) : LineStatus.use oe .lost = .lost := by cases oe <;> rfl

/-- With OE = 1 a defined observation stays defined. -/
theorem LineStatus.use_ne_lost {status : LineStatus} (h : status ≠ .lost) : LineStatus.use true status ≠ .lost := by
  cases status
  case lost => exact absurd rfl h
  all_goals simp [LineStatus.use]

theorem write_keeps_lost {s t : State} (hw : HostWrites s t) (hs : s.line = .lost) : t.line = .lost := by
  cases hw with
  | oe v =>
    rw [State.writeOe_line, hs]
    cases v <;> rfl
  | _ => exact hs

theorem exec_keeps_lost {i : Instr} {s t : State} (h : exec i s = .next t) (hs : s.line = .lost) : t.line = .lost := by
  rcases exec_line h with rfl | hl
  · exact hs
  · rw [hl, hs, LineStatus.use_lost]

/-- Only a system reset brings a lost observation back. -/
theorem step_keeps_lost {s t : State} (hs : s.line = .lost) (hr : s.rst.head? ≠ some true) (h : step s = .next t) :
    t.line = .lost := by
  rcases step_cases h with ⟨r, hl, -⟩ | ⟨k, rest, -, -, rfl⟩ | ⟨-, -, hh⟩ | ⟨-, -, i, -, hx⟩
  · simp [hl] at hr
  · exact hs
  · obtain ⟨rest, ⟨k, rfl⟩ | hw | ⟨i, -, hx⟩⟩ := hostStep_moves hh
    · exact hs
    · exact write_keeps_lost hw hs
    · exact exec_keeps_lost hx hs
  · exact exec_keeps_lost hx hs

/-- Settles O46: OE enters an instruction's effect only through its record and the ghost line. -/
theorem undrivenCommandsRunUnobserved : Obligations.UndrivenCommandsRunUnobserved :=
  ⟨fun _ _ _ hc h => ⟨_, exec_undriven hc h, rfl, waveform_of_lost rfl, rxBits_of_lost rfl⟩,
    fun _ _ hs hr h => step_keeps_lost hs hr h⟩

end Sys2Proof.Machine

/-! PROOFS. Every run ends, 45_line_observation.md R184, 40_transmit.md R102, R120 (O52). -/

namespace Sys2Proof.Machine

/-! The steps that a command in progress still takes. -/

/-- The steps of the command in progress that are to come when nothing disturbs it (R102). -/
def State.stepsLeft (s : State) : Nat :=
  if s.phase.toNat = 0 then 0
  else if s.phase.toNat = 1 then 2 + 57 * s.len
  else if s.phase.toNat = 2 then 57 * (s.len - s.idx) + 1
  else if s.phase.toNat ≤ 9 then 7 * s.bitcnt.toNat - (s.phase.toNat - 3) + 57 * (s.len - s.idx - 1) + 1
  else 1

/-- What `stepsLeft` counts on, of the invariant and of the widths: a command in progress is at a place it can be at. -/
def State.onCourse (s : State) : Prop :=
  s.phase.toNat ≤ 11 ∧ (s.phase.toNat = 1 → s.idx = 0) ∧ (s.phase.toNat = 2 → s.idx < s.len) ∧
  (3 ≤ s.phase.toNat ∧ s.phase.toNat ≤ 9 → 1 ≤ s.bitcnt.toNat ∧ s.idx < s.len) ∧
  (1 ≤ s.phase.toNat ∧ s.phase.toNat ≤ 9 → s.len < 2 ^ s.cfg.lenBits)

theorem onCourse_idle {s : State} (hp : s.phase = Phase.idle) : s.onCourse := by simp [State.onCourse, hp]

@[simp] theorem stepsLeft_idle {s : State} (hp : s.phase = Phase.idle) : s.stepsLeft = 0 := by
  simp [State.stepsLeft, hp]

/-- IDX + 1 does not wrap while IDX is below LEN and LEN inside its field. -/
theorem State.nextIdx_eq {s : State} (hidx : s.idx < s.len) (hfit : s.len < 2 ^ s.cfg.lenBits) :
    s.nextIdx = s.idx + 1 := Nat.mod_eq_of_lt (by omega)

/-- Each operation of a command in progress is one of its steps. -/
theorem exec_stepsLeft {i : Instr} {s t : State} (hd : decodePhase s.phase = .instr i) (hx : exec i s = .next t)
    (hs : s.onCourse) : t.onCourse ∧ t.stepsLeft + 1 = s.stepsLeft := by
  obtain ⟨hi, hp⟩ := phase_of_decode 0 hd
  simp only [State.onCourse, State.stepsLeft, hp] at hs ⊢
  cases exec_executes hx with
  | waits hi' => cases hi.symm.trans hi'
  | transmit n => cases hi
  | latch => cases hi
  | enter =>
    simp [encode] at hs
    rw [State.goto_phase, s.afterEnter_eq]
    split <;> simp [encode, hs] <;> omega
  | nextBit hb =>
    have hne := s.bitsRemain_iff.mp hb
    simp [encode] at hs ⊢
    bv_omega
  | nextByte hb =>
    simp [encode] at hs
    obtain ⟨⟨h1, hlt⟩, hfit⟩ := hs
    have h0 : s.bitcnt - 1#4 = 0#4 := by simpa [State.bitsRemain] using hb
    have hcnt : s.bitcnt.toNat = 1 := by bv_omega
    have hnext := State.nextIdx_eq hlt hfit
    have hidx : (s.spend s.cfg.cLoop).shiftOut.nextIdx = s.idx + 1 := hnext
    rw [State.goto_phase, s.afterByte_eq]
    split <;> simp [encode, hidx, hcnt] <;> omega
  | _ => simp [encode] at hs ⊢ <;> omega

/-! That a step answers. -/

/-- The Host presents legal commands only. -/
def State.commandsLegal (s : State) : Prop :=
  ∀ w, HostStep.command w ∈ s.host → ∃ i, decodeCommand s.cfg.lenBits w = .instr i

/-- With no reset at this point the step is undisturbed, or a request is served. -/
theorem undisturbedNow_or_served {s : State} (hr : s.rst.head? ≠ some true) : s.undisturbedNow ∨
    ∃ k rest, (s.preemptor = .preempt k :: rest ∧ s.ie = true) ∨ s.preemptor = .preemptNM k :: rest := by
  rcases hp : s.preemptor with _ | ⟨_ | k | k, rest⟩
  · exact .inl ⟨hr, by simp [hp]⟩
  · exact .inl ⟨hr, by simp [hp]⟩
  · cases hie : s.ie
    · exact .inl ⟨hr, by simp [hp, hie]⟩
    · exact .inr ⟨k, rest, .inl ⟨rfl, rfl⟩⟩
  · exact .inr ⟨k, rest, .inr rfl⟩

theorem hostStep_answers {s : State} (hl : s.commandsLegal) : ∃ t, hostStep s = .next t := by
  rcases hh : s.host with _ | ⟨h, rest⟩
  · exact ⟨_, hostStep_none s hh⟩
  cases h with
  | command w =>
    obtain ⟨i, hd⟩ := hl w (hh ▸ List.mem_cons_self)
    rw [hostStep_command s hh hd]
    exact exec_answers i _
  | idle k => exact ⟨_, hostStep_idle s hh⟩
  | writeFb bytes => exact ⟨_, hostStep_writeFb s hh⟩
  | writeByte i b => exact ⟨_, hostStep_writeByte s hh⟩
  | writeOe v => exact ⟨_, hostStep_writeOe s hh⟩
  | writeIe v => exact ⟨_, hostStep_writeIe s hh⟩

/-- With a legal PHASE and legal commands the step answers a next state. -/
theorem step_answers {s : State} (hp : s.phase.toNat ≤ 11) (hl : s.commandsLegal) : ∃ t, step s = .next t := by
  by_cases hr : s.rst.head? = some true
  · obtain ⟨r, hr⟩ := List.head?_eq_some_iff.mp hr
    exact ⟨_, step_reset hr⟩
  rcases undisturbedNow_or_served hr with hu | ⟨k, rest, hserved⟩
  · by_cases hidle : s.phase = Phase.idle
    · rw [step_idle hu hidle]
      exact hostStep_answers hl
    · have hne : s.phase.toNat ≠ 0 := fun h0 => hidle (BitVec.eq_of_toNat_eq h0)
      obtain ⟨i, hd⟩ := decodePhase_legal (by omega) hp
      rw [step_operation hu hidle hd]
      exact exec_answers i _
  · exact ⟨_, step_served hr hserved⟩

/-! The measure of a run. -/

/-- The disturbances to come after the inputs of a point are used up are not more. -/
theorem inputsUsed_disturbances_le (s : State) : s.inputsUsed.disturbances ≤ s.disturbances :=
  Nat.add_le_add ((List.tail_sublist _).count_le _) (s.inputsUsed_preemptor_suffix.sublist.countP_le)

/-- What an action of the Host makes of a state in IDLE: the action is off the list, and what it has started is the rest
of its steps. -/
theorem hostStep_stepsLeft {s t : State} {h : HostStep} {rest : List HostStep} (hp : s.phase = Phase.idle)
    (hh : s.host = h :: rest) (hx : hostStep s = .next t) :
    t.onCourse ∧ t.host = rest ∧ t.cfg = s.cfg ∧ t.disturbances = s.disturbances ∧
      t.stepsLeft + 1 = h.steps s.cfg := by
  rcases hostStep_cases hx with ⟨hh', rfl⟩ | ⟨w, rest', i, hh', hd, hx⟩ | ⟨k, rest', hh', rfl⟩ |
    ⟨bytes, rest', hh', rfl⟩ | ⟨i, b, rest', hh', rfl⟩ | ⟨v, rest', hh', rfl⟩ | ⟨v, rest', hh', rfl⟩ <;>
    cases hh.symm.trans hh'
  · rcases decodeCommand_format hd with ⟨n, rfl⟩ | rfl
    · cases (exec_transmit_idle (s := s.setHost rest) hp n).symm.trans hx
      have hfit := (decodeCommand_transmit hd).2
      have hlen : n % 2 ^ s.cfg.lenBits = n := Nat.mod_eq_of_lt hfit
      refine ⟨by simp [State.onCourse, hlen, hfit], rfl, rfl, rfl, ?_⟩
      simp [State.stepsLeft, HostStep.steps, hd, hlen]
      omega
    · cases (exec_latch_idle (s := s.setHost rest) hp).symm.trans hx
      exact ⟨by simp [State.onCourse], rfl, rfl, rfl, by simp [State.stepsLeft, HostStep.steps, hd]⟩
  all_goals exact ⟨onCourse_idle hp, rfl, rfl, rfl, by simp [HostStep.steps, hp]⟩

section
variable {P : List HostStep → Prop} {part : List HostStep → List HostStep}

/-- The steps and disturbances that a run still has before it, when the Host does `part` of its actions. -/
def State.stepsToCome (part : List HostStep → List HostStep) (s : State) : Nat :=
  s.disturbances + s.stepsLeft + ((part s.host).map (HostStep.steps s.cfg)).sum

variable (hnil : P []) (hcons : ∀ h rest, ¬ P (h :: rest) → part (h :: rest) = h :: part rest)
include hnil hcons

/-- Every step uses up something of what is to come: a disturbance, a step of the command in progress, or the first step
of an action. -/
theorem step_stepsToCome {s t : State} (hs : s.onCourse) (hl : s.commandsLegal)
    (hn : ¬ (s.phase = Phase.idle ∧ P s.host)) (h : step s = .next t) :
    t.onCourse ∧ t.commandsLegal ∧ t.stepsToCome part < s.stepsToCome part := by
  have hused := inputsUsed_disturbances_le s
  rcases step_cases h with ⟨r, hr, rfl⟩ | ⟨k, rest, -, hserved, rfl⟩ | ⟨-, hp, hh⟩ | ⟨-, -, i, hd, hx⟩
  · refine ⟨onCourse_idle rfl, hl, ?_⟩
    have hleft : (s.setRst r).systemReset.stepsLeft = 0 := stepsLeft_idle rfl
    simp [State.stepsToCome, State.disturbances, hr, hleft]
    omega
  · refine ⟨hs, hl, ?_⟩
    have hcount : s.rst.tail.count true ≤ s.rst.count true := (List.tail_sublist _).count_le _
    have hleft : (((s.setRst s.rst.tail).setPreemptor rest).emit k).stepsLeft = s.stepsLeft := rfl
    rcases hserved with ⟨hp, -⟩ | hp <;> simp [State.stepsToCome, State.disturbances, hp, hleft] <;> omega
  · obtain ⟨a, rest, hlist⟩ : ∃ a rest, s.host = a :: rest := by
      rcases hl' : s.host with _ | ⟨a, rest⟩
      · exact absurd ⟨hp, hl' ▸ hnil⟩ hn
      · exact ⟨a, rest, rfl⟩
    obtain ⟨hcourse, hhost, hcfg, hdist, hsteps⟩ := hostStep_stepsLeft (s := s.inputsUsed) hp hlist hh
    have hcfg' : t.cfg = s.cfg := hcfg
    have hsteps' : t.stepsLeft + 1 = a.steps s.cfg := hsteps
    have hpart := hcons a rest fun hP => hn ⟨hp, hlist ▸ hP⟩
    refine ⟨hcourse, fun w hw => hcfg' ▸ hl w (hlist ▸ List.mem_cons_of_mem a (hhost ▸ hw)), ?_⟩
    simp [State.stepsToCome, hhost, hcfg', hlist, hpart, hdist, hp]
    omega
  · obtain ⟨hcfg, -, -, hhost, hpre, hrst, -⟩ := exec_frame hx
    obtain ⟨hcourse, hsteps⟩ := exec_stepsLeft (s := s.inputsUsed) hd hx hs
    have hdist : t.disturbances = s.inputsUsed.disturbances := by simp [State.disturbances, hpre, hrst]
    have hleft : s.inputsUsed.stepsLeft = s.stepsLeft := rfl
    have hhost' : t.host = s.host := hhost
    have hcfg' : t.cfg = s.cfg := hcfg
    refine ⟨hcourse, by simpa [State.commandsLegal, hhost', hcfg'] using hl, ?_⟩
    simp [State.stepsToCome, hhost', hcfg', hdist]
    omega

/-- A run with legal commands gets to IDLE with `P`, in at most the steps and disturbances to come. -/
theorem exists_firstIn_idle {s : State} (hs : s.onCourse) (hl : s.commandsLegal) :
    ∃ k t, s.firstIn k (fun u => u.phase = Phase.idle ∧ P u.host) t ∧ k ≤ s.stepsToCome part := by
  induction hm : s.stepsToCome part using Nat.strongRecOn generalizing s with
  | ind m ih =>
    by_cases hn : s.phase = Phase.idle ∧ P s.host
    · exact ⟨0, s, State.firstIn_zero hn, Nat.zero_le _⟩
    · obtain ⟨u, hu⟩ := step_answers hs.1 hl
      obtain ⟨hs', hl', hlt⟩ := step_stepsToCome hnil hcons hs hl hn hu
      obtain ⟨k, t, hfirst, hk⟩ := ih _ (hm ▸ hlt) hs' hl' rfl
      exact ⟨k + 1, t, State.firstIn_succ hu hn hfirst, by omega⟩

end

/-- Settles O52: every step uses up something of what is to come, for the Host's list up to its last command and for all
of it. -/
theorem everyRunEnds : Obligations.EveryRunEnds := by
  refine fun s hp hl => ⟨?_, ?_⟩
  · obtain ⟨k, t, hfirst, hk⟩ := exists_firstIn_idle (P := fun l => commandWords l = []) (part := commandPart) rfl
      (fun h rest hne => if_neg hne) (onCourse_idle hp) hl
    exact ⟨k, t, hfirst, by simpa [State.stepsToCome, hp] using hk⟩
  · obtain ⟨k, t, ⟨hrun, ⟨hidle, hhost⟩, -⟩, hk⟩ := exists_firstIn_idle (P := fun l => l = []) (part := id) rfl
      (fun _ _ _ => rfl) (onCourse_idle hp) hl
    exact ⟨k, t, hrun, hidle, hhost, by simpa [State.stepsToCome, hp] using hk⟩

end Sys2Proof.Machine

/-! SUPPORT. Runs on the way to a property, the cycles stolen before a step, and a TRANSMIT up to its first return to
IDLE whatever the maskable sources do, 45_line_observation.md R184. -/

namespace Sys2Proof.Machine

/-! Runs on the way to a property. -/

/-- `k` steps lead from `s` to `u`, and no state before `u` has the property. -/
def State.passes (s : State) (P : State → Prop) (k : Nat) (u : State) : Prop :=
  runSteps k s = .next u ∧ ∀ m v, m < k → runSteps m s = .next v → ¬ P v

section
variable {P Q : State → Prop} {s u t : State} {j k : Nat}

theorem State.passes_zero : s.passes P 0 s := ⟨rfl, fun m _ hm => absurd hm (Nat.not_lt_zero m)⟩

theorem State.passes_step (hs : step s = .next u) (hn : ¬ P s) : s.passes P 1 u := by
  refine ⟨(runSteps_succ hs).trans (runSteps_zero u), fun m v hm hv => ?_⟩
  obtain rfl : m = 0 := by omega
  cases hv
  exact hn

theorem State.passes.trans (h : s.passes P j u) (h' : u.passes P k t) : s.passes P (j + k) t := by
  obtain ⟨hrun, hnot⟩ := h
  obtain ⟨hrun', hnot'⟩ := h'
  refine ⟨(runSteps_add hrun).trans hrun', fun m v hm hv => ?_⟩
  by_cases hlt : m < j
  · exact hnot m v hlt hv
  · obtain ⟨i, rfl⟩ := Nat.exists_eq_add_of_le (Nat.not_lt.mp hlt)
    exact hnot' i v (by omega) ((runSteps_add hrun).symm.trans hv)

theorem State.passes.mono (h : s.passes P k u) (hQ : ∀ v, Q v → P v) : s.passes Q k u :=
  ⟨h.1, fun m v hm hv hq => h.2 m v hm hv (hQ v hq)⟩

theorem State.passes.firstIn (h : s.passes P k u) (hu : P u) : s.firstIn k P u := ⟨h.1, hu, h.2⟩

theorem State.noReset.head (hr : s.noReset) : s.rst.head? ≠ some true := fun h => by
  simpa using hr true (List.mem_of_mem_head? h)

/-- No reset and no source that ignores IE comes later in a run than before it. -/
theorem run_calmInputs (hr : s.noReset) (hn : s.P_NoUnmaskable) (h : runSteps k s = .next t) :
    t.noReset ∧ t.P_NoUnmaskable := by
  induction k generalizing s with
  | zero => cases h; exact ⟨hr, hn⟩
  | succ k ih =>
    obtain ⟨u, hu, hrun⟩ := runSteps_succ_iff.mp h
    exact ih (step_noReset hr hu) (step_noUnmaskable hn hu) hrun

end

/-- Two segments of one level in a row are one, as far as Runs can tell. -/
theorem runs_append_merge (t : Trace) (l : Level) (a b : Nat) (u : Trace) :
    runs (t ++ (l, a) :: (l, b) :: u) = runs (t ++ (l, a + b) :: u) :=
  runs_append_congr (show runs ((l, a) :: (l, b) :: u) = runs ((l, a + b) :: u) from consRun_merge l a b _) t

/-- The bytes of FB depend on FB and its generation only. -/
theorem State.fbBytes_congr {s t : State} (hfb : t.fb = s.fb) (hgen : t.fbGen = s.fbGen) (n : Nat) :
    t.fbBytes n = s.fbBytes n :=
  congrArg (List.map · _) (funext (State.fbByte_congr hfb hgen))

/-! The cycles stolen before a step. -/

/-- What a preemption leaves, kept as a state in which the rest is set to fixed values. -/
def State.stallFrame (s : State) : State := { s with trace := [], oeTrace := [], now := 0, rst := [], preemptor := [] }

/-- Preemptions, which have taken `a` cycles, lead from `s` to `u`. -/
structure State.stalls (s : State) (a : Nat) (u : State) : Prop where
  waveform : runs u.trace = runs (s.trace ++ [(s.pin, a)])
  now : u.now = s.now + a
  frame : u.stallFrame = s.stallFrame

section
variable {s u : State} {a : Nat}

theorem State.stalls.cfg (h : s.stalls a u) : u.cfg = s.cfg := (congrArg State.cfg h.frame :)

theorem State.stalls.phase (h : s.stalls a u) : u.phase = s.phase := (congrArg State.phase h.frame :)

theorem State.stalls.pin (h : s.stalls a u) : u.pin = s.pin := (congrArg State.pin h.frame :)

theorem State.stalls.host (h : s.stalls a u) : u.host = s.host := (congrArg State.host h.frame :)

theorem State.stalls.fbBytes (h : s.stalls a u) (n : Nat) : u.fbBytes n = s.fbBytes n :=
  State.fbBytes_congr (congrArg State.fb h.frame :) (congrArg State.fbGen h.frame :) n

theorem State.stalls_zero : s.stalls 0 s := ⟨by rw [runs_append_singleton, snocRun_zero], rfl, rfl⟩

/-- A preemption, and then others. -/
theorem State.stalls_emit {k : Nat} (r : List Bool) (p : List Interrupt)
    (h : (((s.setRst r).setPreemptor p).emit k).stalls a u) : s.stalls (k + a) u where
  waveform := by
    rw [h.waveform]
    show runs (Trace.push s.trace s.pin k ++ [(s.pin, a)]) = _
    rw [runs_append_congr_left (runs_push s.trace s.pin k), List.append_assoc]
    exact runs_append_merge s.trace s.pin k a []
  now := by rw [h.now, ← Nat.add_assoc]; rfl
  frame := h.frame

/-- The Preemptor's requests come to an end: preemptions lead to an undisturbed state, to `s` itself where it is one. -/
theorem exists_stall {P : State → Prop} (hr : s.noReset) (hn : s.P_NoUnmaskable)
    (hP : ∀ v, v.phase = s.phase → v.host = s.host → ¬ P v) :
    ∃ k a u, s.passes P k u ∧ s.stalls a u ∧ u.undisturbedNow ∧ (s.undisturbedNow → k = 0 ∧ a = 0 ∧ u = s) := by
  induction hl : s.preemptor generalizing s with
  | nil =>
    exact ⟨0, 0, s, State.passes_zero, State.stalls_zero, undisturbedNow_of_quiet hr (by simp [hl]),
      fun _ => ⟨rfl, rfl, rfl⟩⟩
  | cons x rest ih =>
    by_cases hu : s.undisturbedNow
    · exact ⟨0, 0, s, State.passes_zero, State.stalls_zero, hu, fun _ => ⟨rfl, rfl, rfl⟩⟩
    obtain ⟨j, rest', hserved⟩ := (undisturbedNow_or_served hr.head).resolve_left hu
    have hstep := step_served hr.head hserved
    have htail : rest' = rest := by rcases hserved with ⟨h, -⟩ | h <;> simp_all
    subst htail
    obtain ⟨k, a, u, hpasses, hstalls, hundisturbed, -⟩ :=
      ih (step_noReset hr hstep) (step_noUnmaskable hn hstep) hP rfl
    exact ⟨1 + k, j + a, u, (State.passes_step hstep (hP s rfl rfl)).trans hpasses, State.stalls_emit _ _ hstalls,
      hundisturbed, fun h => absurd h hu⟩

end

/-! From the acceptance to the first cell. -/

theorem accepted_stallFrame {s u : State} (h : u.stallFrame = s.stallFrame) (rest : List HostStep) (n : Nat) :
    (u.accepted rest n).stallFrame = (s.accepted rest n).stallFrame :=
  (congrArg (fun v : State => (v.accepted rest n).stallFrame) h :)

theorem entered_stallFrame {s u : State} (h : u.stallFrame = s.stallFrame) :
    u.entered.stallFrame = s.entered.stallFrame :=
  (congrArg (fun v : State => v.entered.stallFrame) h :)

/-- The acceptance of a TRANSMIT and its ENTER, `a` cycles having been stolen before the one and the other. -/
theorem exists_entered {P : State → Prop} {s : State} {w n : Nat} {rest : List HostStep} (hp : s.phase = Phase.idle)
    (hpin : s.pin = false) (hh : s.host = .command w :: rest)
    (hd : decodeCommand s.cfg.lenBits w = .instr (.transmit n)) (hr : s.noReset) (hn : s.P_NoUnmaskable)
    (hP : ∀ v, P v → v.phase = Phase.idle ∧ v.host ≠ s.host) :
    ∃ k a u, s.passes P k u ∧ u.calm ∧ u.stallFrame = (s.accepted rest n).entered.stallFrame ∧
      runs u.trace = runs (s.trace ++ [(false, a + s.cfg.cEnter)]) ∧ u.now = s.now + a + s.cfg.cEnter ∧
      (s.quietUntilEnter → k = 2 ∧ a = 0) := by
  obtain ⟨k₁, a₁, s₁, hpass₁, hstall₁, hu₁, hquiet₁⟩ := exists_stall hr hn fun v _ hhost hv => (hP v hv).2 hhost
  obtain ⟨hr₁, hn₁⟩ := run_calmInputs hr hn hpass₁.1
  have haccept : step s₁ = .next (s₁.accepted rest n) :=
    step_accepts hu₁ (hstall₁.phase.trans hp) (hstall₁.host.trans hh) (hstall₁.cfg.symm ▸ hd)
  have hne₁ : ¬ P s₁ := fun hv => (hP s₁ hv).2 hstall₁.host
  obtain ⟨hr₂, hn₂⟩ := calmInputs_inputsUsed hr₁ hn₁
  obtain ⟨k₂, a₂, s₂, hpass₂, hstall₂, hu₂, hquiet₂⟩ :=
    exists_stall (s := s₁.accepted rest n) (P := P) hr₂ hn₂ fun v hv _ hPv =>
      absurd (hv.symm.trans (hP v hPv).1) (by decide : Phase.enter ≠ Phase.idle)
  obtain ⟨hr₃, hn₃⟩ := run_calmInputs (s := s₁.accepted rest n) hr₂ hn₂ hpass₂.1
  have hp₂ : s₂.phase = Phase.enter := hstall₂.phase
  have henter : step s₂ = .next s₂.entered := step_operation (i := .enter) hu₂ (by rw [hp₂]; decide) (by rw [hp₂]; rfl)
  have hne₂ : ¬ P s₂ := fun hv => absurd (hp₂.symm.trans (hP s₂ hv).1) (by decide)
  have hframe := entered_stallFrame (hstall₂.frame.trans (accepted_stallFrame hstall₁.frame rest n))
  have hcfg : s₂.cfg = s.cfg := hstall₂.cfg.trans hstall₁.cfg
  have hpin₁ : s₁.pin = false := hstall₁.pin.trans hpin
  have hpin₂ : s₂.pin = false := hstall₂.pin.trans hpin₁
  obtain ⟨hr₄, hn₄⟩ := calmInputs_inputsUsed hr₃ hn₃
  refine ⟨_, a₁ + a₂, s₂.entered,
    ((hpass₁.trans (State.passes_step haccept hne₁)).trans hpass₂).trans (State.passes_step henter hne₂),
    ⟨hr₄, hn₄, rfl⟩, hframe, ?waveform, ?now, fun hq => ?quiet⟩
  case waveform =>
    have hw₂ : runs s₂.trace = runs (s₁.trace ++ [(false, a₂)]) := hpin₁ ▸ hstall₂.waveform
    calc runs (Trace.push s₂.trace s₂.pin s₂.cfg.cEnter)
      _ = runs (s₂.trace ++ [(false, s.cfg.cEnter)]) := by rw [runs_push, hpin₂, hcfg]
      _ = runs (s.trace ++ [(false, a₁)] ++ [(false, a₂)] ++ [(false, s.cfg.cEnter)]) := by
        rw [runs_append_congr_left hw₂, List.append_assoc, runs_append_congr_left hstall₁.waveform, hpin]
        simp
      _ = runs (s.trace ++ [(false, a₁ + a₂ + s.cfg.cEnter)]) := by
        simp only [List.append_assoc, List.cons_append, List.nil_append, runs_append_merge]
  case now =>
    show s₂.now + s₂.cfg.cEnter = _
    have hnow : s₂.now = s₁.now + a₂ := hstall₂.now
    rw [hnow, hstall₁.now, hcfg]
    omega
  case quiet =>
    obtain ⟨hq₁, hq₂⟩ := undisturbed_until_enter hr hn hq rest n
    obtain ⟨rfl, rfl, rfl⟩ := hquiet₁ hq₁
    obtain ⟨rfl, rfl, -⟩ := hquiet₂ hq₂
    exact ⟨rfl, rfl⟩

/-! The whole TRANSMIT. -/

/-- From LOADB on the TRANSMIT is in progress for all the steps it has left. -/
theorem runSteps_guarded_ne_idle {m : Nat} {s v : State} (hi : s.Inv) (hc : s.onCourse) (hg : s.guarded)
    (hr : s.noReset) (hn : s.P_NoUnmaskable) (hm : m < s.stepsLeft) (h : runSteps m s = .next v) :
    v.phase ≠ Phase.idle := by
  induction m generalizing s with
  | zero => cases h; exact hg.ne_idle
  | succ m ih =>
    obtain ⟨u, hu, hrun⟩ := runSteps_succ_iff.mp h
    have hundisturbed := undisturbedNow_of_masked hr.head hn (ie_of_guarded hi hg)
    obtain ⟨h2, h10⟩ := hg
    obtain ⟨i, hd⟩ := decodePhase_legal (p := s.phase) (by omega) (by omega)
    have hx : exec i s.inputsUsed = .next u := exec_of_step hundisturbed hu i rfl hd
    obtain ⟨hc', hleft⟩ := exec_stepsLeft (s := s.inputsUsed) hd hx hc
    have hleft' : u.stepsLeft + 1 = s.stepsLeft := hleft
    have hne : s.phase ≠ Phase.exit := fun hp => by simp [State.stepsLeft, hp] at hm
    exact ih (inv_keptByMoves.step hi hu) hc' (exec_guarded (s := s.inputsUsed) hd ⟨h2, h10⟩ hne hx)
      (step_noReset hr hu) (step_noUnmaskable hn hu) (by omega) hrun

/-- From the commit of ENTER the cells are sent, and the state is never in IDLE until EXIT. -/
theorem passes_cells {P : State → Prop} {n : Nat} {s : State} (hc : s.calm) (hpin : s.pin = false) (hlen : s.len = n)
    (hp : s.phase = if 0 < n then Phase.loadb else Phase.exit) (hidx : s.idx = 0) (hfit : n < 2 ^ s.cfg.lenBits)
    (hP : ∀ v, P v → v.phase = Phase.idle) :
    ∃ t, s.passes P (57 * n) t ∧ s.sends ((bitsOfBytes (s.fbBytes n)).flatMap (cellTrace s.cfg)) t ∧
      t.phase = Phase.exit := by
  obtain ⟨t, hrun, hsends, hexit, -⟩ := runSteps_cells hc hpin hlen hp hidx hfit
  refine ⟨t, ⟨hrun, fun m v hm hv hPv => ?_⟩, hsends, hexit⟩
  have hpos : 0 < n := by omega
  rw [if_pos hpos] at hp
  obtain ⟨hr, hn, hie⟩ := hc
  have hinv : s.Inv := (inv_loadb hp).2 ⟨hpin, hie, by omega⟩
  have hcourse : s.onCourse := by simp [State.onCourse, hp, hidx, hlen, hpos, hfit]
  have hleft : s.stepsLeft = 57 * n + 1 := by simp [State.stepsLeft, hp, hidx, hlen]
  exact runSteps_guarded_ne_idle hinv hcourse (by simp [State.guarded, hp]) hr hn (by omega) hv (hP v hPv)

/-- A TRANSMIT of `n` bytes, `rest` being the Host's actions behind it, leads from `s` to `u`; preemptions before ENTER
commits have taken `a` cycles. -/
structure State.transmits (s : State) (rest : List HostStep) (n a : Nat) (u : State) : Prop where
  phase : u.phase = Phase.idle
  host : u.host = rest
  pin : u.pin = false
  waveform : runs u.trace =
    runs (s.trace ++ lowCells s.cfg s.cfg.cExit (a + s.cfg.cEnter) (bitsOfBytes (s.fbBytes n)))
  now : u.now = s.now + a + (s.cfg.cEnter + 8 * n * s.cfg.tcell + s.cfg.cExit)

/-- A TRANSMIT that is presented in IDLE comes to its end, whatever the maskable sources do. -/
theorem exists_transmits {P : State → Prop} {s : State} {w n : Nat} {rest : List HostStep} (hp : s.phase = Phase.idle)
    (hpin : s.pin = false) (hh : s.host = .command w :: rest)
    (hd : decodeCommand s.cfg.lenBits w = .instr (.transmit n)) (hr : s.noReset) (hn : s.P_NoUnmaskable)
    (hP : ∀ v, P v → v.phase = Phase.idle ∧ v.host ≠ s.host) :
    ∃ k a u, s.passes P k u ∧ s.transmits rest n a u ∧ (s.quietUntilEnter → k = 3 + 57 * n ∧ a = 0) := by
  obtain ⟨j, a, x, hpass, hcalm, hframe, hwave, hnow, hquiet⟩ := exists_entered hp hpin hh hd hr hn hP
  have hfit : n < 2 ^ s.cfg.lenBits := (decodeCommand_transmit hd).2
  have hcfg : x.cfg = s.cfg := (congrArg State.cfg hframe :)
  have hlen : x.len = n := (congrArg State.len hframe :).trans (Nat.mod_eq_of_lt hfit)
  have hidx : x.idx = 0 := (congrArg State.idx hframe :)
  have hlow : x.pin = false := (congrArg State.pin hframe :).trans hpin
  have hhost : x.host = rest := (congrArg State.host hframe :)
  have hphase : x.phase = if 0 < n then Phase.loadb else Phase.exit :=
    (congrArg State.phase hframe :).trans (entered_phase s rest hfit)
  have hbytes : x.fbBytes n = s.fbBytes n :=
    State.fbBytes_congr (congrArg State.fb hframe :) (congrArg State.fbGen hframe :) n
  obtain ⟨v, hcells, hsends, hexit⟩ := passes_cells hcalm hlow hlen hphase hidx (hcfg ▸ hfit) fun v hv => (hP v hv).1
  have hne : ¬ P v := fun hv => absurd (hexit.symm.trans (hP v hv).1) (by decide)
  refine ⟨j + 57 * n + 1, a, _, (hpass.trans hcells).trans (State.passes_step (step_exit hsends.calm hexit) hne),
    ⟨rfl, hsends.host.trans hhost, hsends.pin, ?waveform, ?now⟩, fun hq => ?quiet⟩
  case waveform =>
    calc runs (Trace.push v.trace v.pin v.cfg.cExit)
      _ = runs (v.trace ++ [(false, s.cfg.cExit)]) := by rw [runs_push, hsends.pin, hsends.cfg, hcfg]
      _ = runs (s.trace ++ [(false, a + s.cfg.cEnter)] ++ (bitsOfBytes (s.fbBytes n)).flatMap (cellTrace s.cfg) ++
            [(false, s.cfg.cExit)]) := by
        rw [runs_append_congr_left hsends.waveform, List.append_assoc, runs_append_congr_left hwave, hbytes, hcfg,
          List.append_assoc (s.trace ++ _)]
      _ = _ := by simp [lowCells]
  case now =>
    show v.now + v.cfg.cExit = _
    rw [hsends.now, hsends.cfg, hcfg, hnow, total_cells, length_bitsOfBytes, length_fbBytes]
    omega
  case quiet =>
    obtain ⟨rfl, rfl⟩ := hquiet hq
    exact ⟨by omega, rfl⟩

/-- So a TRANSMIT has a first return to IDLE. -/
theorem exists_returnsIn {s : State} {w n : Nat} {rest : List HostStep} (hp : s.phase = Phase.idle)
    (hpin : s.pin = false) (hh : s.host = .command w :: rest)
    (hd : decodeCommand s.cfg.lenBits w = .instr (.transmit n)) (hr : s.noReset) (hn : s.P_NoUnmaskable) :
    ∃ k a t, s.returnsIn k rest t ∧ s.transmits rest n a t ∧ t.cfg = s.cfg ∧
      (s.quietUntilEnter → k = 3 + 57 * n ∧ a = 0) := by
  have hP : ∀ v : State, v.phase = Phase.idle ∧ v.host = rest → v.phase = Phase.idle ∧ v.host ≠ s.host :=
    fun v ⟨hidle, hhost⟩ => ⟨hidle, by simp [hhost, hh]⟩
  obtain ⟨k, a, t, hpass, hsent, hquiet⟩ := exists_transmits hp hpin hh hd hr hn hP
  exact ⟨k, a, t, hpass.firstIn ⟨hsent.phase, hsent.host⟩, hsent, (cfg_keptByMoves s.cfg).run rfl hpass.1, hquiet⟩

end Sys2Proof.Machine

/-! SUPPORT. The high runs, the line frames and the reset gap of a trace seen from its end, and the reference decoder,
45_line_observation.md R170 to R175. -/

namespace Sys2Proof.Machine

/-! Line frames from the end of the runs. -/

/-- A run before the frames goes into the first of them, and leaves open how the last one goes on. -/
theorem joinFrames_goesOn (h l : Nat) (before : List LineFrame) (f : LineFrame) :
    ∃ (before' : List LineFrame) (f' : LineFrame), f'.latched = f.latched ∧ ∀ hs ls b after,
      joinFrames h l (before ++ ⟨f.highs ++ hs, f.lows ++ ls, b⟩ :: after) =
        before' ++ ⟨f'.highs ++ hs, f'.lows ++ ls, b⟩ :: after := by
  cases before with
  | nil => exact ⟨[], { f with highs := h :: f.highs, lows := l :: f.lows }, rfl, fun _ _ _ _ => rfl⟩
  | cons g before => exact ⟨{ g with highs := h :: g.highs, lows := l :: g.lows } :: before, f, rfl, fun _ _ _ _ => rfl⟩

/-- The frames up to a high run, of which the last is still open: what follows the high run goes on with that one. -/
theorem exists_framesOfRuns_goesOn (gap : Nat) (q : Trace) (h : Nat) :
    ∃ (before : List LineFrame) (f : LineFrame), f.latched = false ∧ ∀ w hs ls b after,
      framesOfRuns gap ((true, h) :: w) = ⟨h :: hs, ls, b⟩ :: after →
      framesOfRuns gap (q ++ (true, h) :: w) = before ++ ⟨f.highs ++ hs, f.lows ++ ls, b⟩ :: after := by
  induction q using framesOfRuns.induct gap with
  | case1 => exact ⟨[], ⟨[h], [], false⟩, rfl, fun w hs ls b after hw => hw⟩
  | case2 c rest ih => exact ih
  | case3 h₁ =>
    exact ⟨[], ⟨[h₁, h], [0], false⟩, rfl, fun w hs ls b after hw => by simp [framesOfRuns, hw, joinFrames]⟩
  | case4 h₁ h₂ rest ih =>
    obtain ⟨before, f, hf, hgo⟩ := ih
    obtain ⟨before', f', hf', hjoin⟩ := joinFrames_goesOn h₁ 0 before f
    exact ⟨before', f', hf'.trans hf, fun w hs ls b after hw =>
      (congrArg (joinFrames h₁ 0) (hgo w hs ls b after hw)).trans (hjoin ..)⟩
  | case5 h₁ l rest hgap ih =>
    obtain ⟨before, f, hf, hgo⟩ := ih
    exact ⟨⟨[h₁], [], true⟩ :: before, f, hf, fun w hs ls b after hw => by
      simp [framesOfRuns, hgap, hgo w hs ls b after hw]⟩
  | case6 h₁ l rest hgap ih =>
    obtain ⟨before, f, hf, hgo⟩ := ih
    obtain ⟨before', f', hf', hjoin⟩ := joinFrames_goesOn h₁ l before f
    refine ⟨before', f', hf'.trans hf, fun w hs ls b after hw => ?_⟩
    rw [List.cons_append, List.cons_append, framesOfRuns, if_neg hgap, hgo w hs ls b after hw, hjoin]

/-- The runs `r` end in `m` low cycles behind a high run, up to which the line frames are `before` and the open `f`. -/
def openFrame (gap : Nat) (r : Trace) (before : List LineFrame) (f : LineFrame) (m : Nat) : Prop :=
  ∃ q h, r = snocRun (q ++ [(true, h)]) (false, m) ∧ framesOfRuns gap (q ++ [(true, h)]) = before ++ [f]

section
variable {gap m k : Nat} {r : Trace} {before : List LineFrame} {f : LineFrame}

/-- What follows the high run at the end goes on with the last frame. -/
theorem framesOfRuns_goesOn {q : Trace} {h : Nat} (hF : framesOfRuns gap (q ++ [(true, h)]) = before ++ [f]) :
    f.latched = false ∧ ∀ w hs ls b after, framesOfRuns gap ((true, h) :: w) = ⟨h :: hs, ls, b⟩ :: after →
      framesOfRuns gap (q ++ (true, h) :: w) = before ++ ⟨f.highs ++ hs, f.lows ++ ls, b⟩ :: after := by
  obtain ⟨before', f', hf', hgo⟩ := exists_framesOfRuns_goesOn gap q h
  have hF' := hgo [] [] [] false [] rfl
  simp only [List.append_nil, ← hf'] at hF'
  obtain ⟨rfl, hf⟩ := List.append_inj' (hF.symm.trans hF') rfl
  cases hf
  exact ⟨hf', hgo⟩

theorem openFrame.latched (ho : openFrame gap r before f m) : f.latched = false := by
  obtain ⟨q, h, -, hF⟩ := ho
  exact (framesOfRuns_goesOn hF).1

/-- Low cycles come to the low run at the end. -/
theorem openFrame.low (ho : openFrame gap r before f m) (k : Nat) :
    openFrame gap (snocRun r (false, k)) before f (m + k) := by
  obtain ⟨q, h, rfl, hF⟩ := ho
  exact ⟨q, h, snocRun_merge _ false m k, hF⟩

/-- A high run behind a low run stands behind the two. -/
theorem snocRun_low_high (q : Trace) (h : Nat) (hm : m ≠ 0) (hk : k ≠ 0) :
    snocRun (snocRun (q ++ [(true, h)]) (false, m)) (true, k) = q ++ [(true, h), (false, m)] ++ [(true, k)] := by
  have hlow : snocRun (q ++ [(true, h)]) (false, m) = q ++ [(true, h)] ++ [(false, m)] := by
    simp [snocRun_concat _ _ _ _ hm]
  rw [hlow, snocRun_concat _ _ _ _ hk]
  simp

/-- Behind a reset gap a high run begins a frame, and the one before is latched (R173). -/
theorem openFrame.newFrame (ho : openFrame gap r before f m) (hm : m ≠ 0) (hgap : gap ≤ m) (hk : k ≠ 0) :
    openFrame gap (snocRun r (true, k)) (before ++ [{ f with latched := true }]) ⟨[k], [], false⟩ 0 := by
  obtain ⟨q, h, rfl, hF⟩ := ho
  obtain ⟨-, hgo⟩ := framesOfRuns_goesOn hF
  have hw := hgo [(false, m), (true, k)] [] [] true [⟨[k], [], false⟩] (by simp [framesOfRuns, hgap])
  refine ⟨q ++ [(true, h), (false, m)], k, (snocRun_low_high q h hm hk).trans (snocRun_zero _ _).symm, ?_⟩
  simpa using hw

/-- Behind a shorter low run a high run goes on with the frame (R173). -/
theorem openFrame.sameFrame (ho : openFrame gap r before f m) (hm : m ≠ 0) (hgap : m < gap) (hk : k ≠ 0) :
    openFrame gap (snocRun r (true, k)) before ⟨f.highs ++ [k], f.lows ++ [m], false⟩ 0 := by
  obtain ⟨q, h, rfl, hF⟩ := ho
  obtain ⟨-, hgo⟩ := framesOfRuns_goesOn hF
  have hw := hgo [(false, m), (true, k)] [k] [m] false [] (by simp [framesOfRuns, Nat.not_le.mpr hgap, joinFrames])
  refine ⟨q ++ [(true, h), (false, m)], k, (snocRun_low_high q h hm hk).trans (snocRun_zero _ _).symm, ?_⟩
  simpa using hw

/-- The first high run of a line begins its first frame. -/
theorem openFrame_first (gap m : Nat) (hk : k ≠ 0) :
    openFrame gap (snocRun (snocRun [] (false, m)) (true, k)) [] ⟨[k], [], false⟩ 0 := by
  refine ⟨if m = 0 then [] else [(false, m)], k, ?_, ?_⟩
  · by_cases hm : m = 0 <;> simp [snocRun, consRun, hm, hk]
  · by_cases hm : m = 0 <;> simp [framesOfRuns, hm]

/-- The frames: the open one is latched when the low run behind it is a reset gap. -/
theorem openFrame.frames (ho : openFrame gap r before f m) (hgap : m = 0 → 0 < gap) :
    framesOfRuns gap r = before ++ [{ f with latched := decide (gap ≤ m) }] := by
  have hlatched := ho.latched
  obtain ⟨q, h, rfl, hF⟩ := ho
  by_cases hm : m = 0
  · have hopen : decide (gap ≤ 0) = f.latched := by rw [hlatched]; exact decide_eq_false (by omega)
    rw [hm, snocRun_zero, hF, hopen]
  · have hw := (framesOfRuns_goesOn hF).2 [(false, m)] [] [] (decide (gap ≤ m)) []
      (by by_cases hle : gap ≤ m <;> simp [framesOfRuns, hle, joinFrames])
    simpa [snocRun_concat _ _ _ _ hm] using hw

/-- The trace ends in a reset gap when the low run behind its last high run is one. -/
theorem openFrame.endsInGap_iff {t : Trace} (ho : openFrame gap (runs t) before f m) :
    endsInGap gap t = true ↔ m ≠ 0 ∧ gap ≤ m := by
  obtain ⟨q, h, hr, -⟩ := ho
  by_cases hm : m = 0
  · simp [endsInGap, hr, hm]
  · simp [endsInGap, hr, snocRun_concat _ _ _ _ hm, hm]

end

/-- A trace has low cycles alone, or an open frame and the low cycles behind it. -/
theorem runs_blank_or_openFrame (gap : Nat) (t : Trace) :
    (∃ m, runs t = snocRun [] (false, m)) ∨ ∃ before f m, openFrame gap (runs t) before f m := by
  have hshape : (∃ m, runs t = snocRun [] (false, m)) ∨
      ∃ q h m, runs t = snocRun (q ++ [(true, h)]) (false, m) := by
    induction t using List.reverseRecOn with
    | nil => exact .inl ⟨0, rfl⟩
    | append_singleton t seg ih =>
      rw [runs_append_singleton]
      obtain ⟨l, k⟩ := seg
      by_cases hk : k = 0
      · rw [hk, snocRun_zero]
        exact ih
      cases l
      · rcases ih with ⟨m, hm⟩ | ⟨q, h, m, hm⟩
        · exact .inl ⟨m + k, by rw [hm, snocRun_merge]⟩
        · exact .inr ⟨q, h, m + k, by rw [hm, snocRun_merge]⟩
      · refine .inr ?_
        by_cases hend : endsNotHigh (runs t)
        · exact ⟨runs t, k, 0, by rw [snocRun_high hend hk, snocRun_zero]⟩
        · simp only [endsNotHigh, not_forall, not_not] at hend
          obtain ⟨j, hlast⟩ := hend
          obtain ⟨q, hq⟩ := List.getLast?_eq_some_iff.mp hlast
          exact ⟨q, j + k, 0, by rw [hq, snocRun_concat _ _ _ _ hk, if_pos rfl, snocRun_zero]⟩
  refine hshape.imp_right fun ⟨q, h, m, hm⟩ => ?_
  obtain ⟨before, f, hf, hgo⟩ := exists_framesOfRuns_goesOn gap q h
  exact ⟨before, _, m, q, h, hm, hgo [] [] [] false [] rfl⟩

/-- Low cycles alone make no frame. -/
theorem framesOfRuns_blank (gap m : Nat) : framesOfRuns gap (snocRun [] (false, m)) = [] := by
  by_cases hm : m = 0 <;> simp [snocRun, consRun, framesOfRuns, hm]

/-- Low cycles that come to a fresh line leave its frames. -/
theorem framesOfRuns_fresh_low {gap : Nat} (hgap : 0 < gap) {t : Trace} (hfresh : t = [] ∨ endsInGap gap t = true)
    (k : Nat) : framesOfRuns gap (snocRun (runs t) (false, k)) = framesOfRuns gap (runs t) := by
  rcases hfresh with rfl | hend
  · exact framesOfRuns_blank gap k
  rcases runs_blank_or_openFrame gap t with ⟨m, hm⟩ | ⟨before, f, m, ho⟩
  · rw [hm, snocRun_merge, framesOfRuns_blank, framesOfRuns_blank]
  · obtain ⟨-, hm⟩ := ho.endsInGap_iff.mp hend
    rw [(ho.low k).frames fun _ => hgap, ho.frames fun _ => hgap, decide_eq_true hm, decide_eq_true (by omega)]

/-! A row of cells behind a trace. -/

/-- The first cell of a row up to the end of its high run, and the rest of the row. -/
theorem append_lowCells_cons (t : Trace) (c : Cfg) (e k : Nat) (b : Bool) (bits : List Bool) :
    t ++ lowCells c e k (b :: bits) =
      t ++ [(false, k), (false, c.cRise), (true, c.th b)] ++ lowCells c e (tailOf c b) bits := by
  simp [lowCells, cellTrace, tailOf]

theorem runs_append_lowCells_nil (t : Trace) (c : Cfg) (e k : Nat) :
    runs (t ++ lowCells c e k []) = snocRun (runs t) (false, k + e) := by
  rw [← runs_append_singleton]
  exact runs_append_merge t false k e []

/-- The runs up to the end of the first high run of a row of cells. -/
theorem runs_append_lead (t : Trace) (c : Cfg) (k : Nat) (b : Bool) :
    runs (t ++ [(false, k), (false, c.cRise), (true, c.th b)]) =
      snocRun (snocRun (runs t) (false, k + c.cRise)) (true, c.th b) := by
  rw [runs_append_merge, ← runs_append_singleton, ← runs_append_singleton]
  simp

/-! The two symbols in a cell (43_timing_profile.md R151). -/

theorem th0_le_th (c : Cfg) (b : Bool) : c.th0 ≤ c.th b := by
  cases b <;> simp only [Cfg.th, Cfg.th0, Cfg.th1, if_true, Bool.false_eq_true, if_false] <;> omega

theorem th_le_th1 (c : Cfg) (b : Bool) : c.th b ≤ c.th1 := by
  cases b <;> simp only [Cfg.th, Cfg.th0, Cfg.th1, if_true, Bool.false_eq_true, if_false] <;> omega

theorem tcell_eq_th0_add_tl0 (c : Cfg) : c.tcell = c.th0 + c.tl0 := by
  simp only [Cfg.tcell, Cfg.th0, Cfg.tl0]
  omega

theorem tcell_eq_th1_add_tl1 (c : Cfg) : c.tcell = c.th1 + c.tl1 := by
  simp only [Cfg.tcell, Cfg.th1, Cfg.tl1]
  omega

/-- Every cell has a high run, and between two of them the line is low: V4 and V6 suffice. -/
theorem cellsApart_of_separated {c : Cfg} (h4 : c.V4) (h6 : c.V6) : cellsApart c := by
  intro b
  have hparts := cell_parts c b
  have hcell := tcell_eq_th1_add_tl1 c
  have hlow := th0_le_th c b
  have hhigh := th_le_th1 c b
  constructor <;> omega

/-- The low time between two cells is at most TL0. -/
theorem tailOf_add_cRise_le (c : Cfg) (b : Bool) : tailOf c b + c.cRise ≤ c.tl0 := by
  have hparts := cell_parts c b
  have hcell := tcell_eq_th0_add_tl0 c
  have hlow := th0_le_th c b
  omega

section
variable {c : Cfg} (ha : cellsApart c)
include ha

/-- A row of cells adds a high run for each bit, if a low cycle separates the first one from the runs before. -/
theorem highRuns_append_lowCells (e k : Nat) (bits : List Bool) (t : Trace)
    (hend : endsNotHigh (runs t) ∨ k + c.cRise ≠ 0) :
    highRuns (runs (t ++ lowCells c e k bits)) = highRuns (runs t) ++ bits.map c.th := by
  induction bits generalizing t k with
  | nil => rw [runs_append_lowCells_nil, highRuns_snocRun_low, List.map_nil, List.append_nil]
  | cons b bits ih =>
    have hlow : endsNotHigh (snocRun (runs t) (false, k + c.cRise)) := by
      by_cases h0 : k + c.cRise = 0
      · rw [h0, snocRun_zero]
        exact hend.resolve_right (absurd h0)
      · exact endsNotHigh_snocRun_low _ h0
    rw [append_lowCells_cons, ih _ _ (.inr (ha b).2), runs_append_lead, snocRun_high hlow (ha b).1, highRuns_append,
      highRuns_snocRun_low]
    simp [highRuns]

variable {gap : Nat} (h7 : c.tl0 < gap) {before : List LineFrame} {f : LineFrame}
include h7

/-- Behind a high run the rest of a row of cells goes on with its frame, by low runs that are not above TL0. -/
theorem openFrame_append_cells (e k : Nat) (bits : List Bool) {t : Trace} (ho : openFrame gap (runs t) before f 0)
    (hpos : k + c.cRise ≠ 0) (hk : k + c.cRise ≤ c.tl0) :
    ∃ g n, openFrame gap (runs (t ++ lowCells c e k bits)) before g n ∧ e ≤ n ∧
      g.highs = f.highs ++ bits.map c.th ∧ ∀ l ∈ g.lows, l ∈ f.lows ∨ l ≤ c.tl0 := by
  induction bits generalizing t k f with
  | nil =>
    refine ⟨f, 0 + (k + e), ?_, by omega, by simp, fun l hl => .inl hl⟩
    rw [runs_append_lowCells_nil]
    exact ho.low (k + e)
  | cons b bits ih =>
    have hhigh := (ho.low (k + c.cRise)).sameFrame (k := c.th b) (by omega) (by omega) (ha b).1
    rw [← runs_append_lead] at hhigh
    obtain ⟨g, n, hg, hn, hhighs, hlows⟩ := ih _ hhigh (ha b).2 (tailOf_add_cRise_le c b)
    rw [append_lowCells_cons]
    refine ⟨g, n, hg, hn, by simp [hhighs], fun l hl => ?_⟩
    rcases hlows l hl with hl | hl
    · rcases List.mem_append.mp hl with hl | hl
      · exact .inl hl
      · exact .inr (by rw [List.mem_singleton.mp hl]; omega)
    · exact .inr hl

/-- A row of cells whose first high run comes less than a reset gap after an open frame goes on with it (R177). -/
theorem openFrame_append_lowCells_sameFrame {m : Nat} (e k : Nat) (b : Bool) (bits : List Bool) {t : Trace}
    (ho : openFrame gap (runs t) before f m) (hpos : m + k + c.cRise ≠ 0) (hgap : m + k + c.cRise < gap) :
    ∃ g n, openFrame gap (runs (t ++ lowCells c e k (b :: bits))) before g n ∧
      g.highs = f.highs ++ (b :: bits).map c.th := by
  have hhigh := (ho.low (k + c.cRise)).sameFrame (k := c.th b) (by omega) (by omega) (ha b).1
  rw [← runs_append_lead] at hhigh
  obtain ⟨g, n, hg, -, hhighs, -⟩ := openFrame_append_cells ha h7 e _ bits hhigh (ha b).2 (tailOf_add_cRise_le c b)
  exact ⟨g, n, append_lowCells_cons t c e k b bits ▸ hg, by simp [hhighs]⟩

/-- What a row of cells is when its first high run begins a frame: that frame, by low runs that are not above TL0. -/
theorem openFrame_append_lowCells_newFrame (e k : Nat) (b : Bool) (bits : List Bool) {t : Trace}
    (hhigh : openFrame gap (snocRun (snocRun (runs t) (false, k + c.cRise)) (true, c.th b)) before
      ⟨[c.th b], [], false⟩ 0) :
    ∃ g n, openFrame gap (runs (t ++ lowCells c e k (b :: bits))) before g n ∧ e ≤ n ∧
      g.highs = (b :: bits).map c.th ∧ ∀ l ∈ g.lows, l ≤ c.tl0 := by
  rw [← runs_append_lead] at hhigh
  obtain ⟨g, n, hg, hn, hhighs, hlows⟩ :=
    openFrame_append_cells ha h7 e _ bits hhigh (ha b).2 (tailOf_add_cRise_le c b)
  exact ⟨g, n, append_lowCells_cons t c e k b bits ▸ hg, hn, by simp [hhighs],
    fun l hl => (hlows l hl).resolve_left List.not_mem_nil⟩

/-- On a fresh line a row of cells is a frame behind the frames there are (R179). -/
theorem openFrame_append_lowCells_fresh (e k : Nat) (b : Bool) (bits : List Bool) {t : Trace}
    (hfresh : t = [] ∨ endsInGap gap t = true) :
    ∃ g n, openFrame gap (runs (t ++ lowCells c e k (b :: bits))) (framesOfRuns gap (runs t)) g n ∧ e ≤ n ∧
      g.highs = (b :: bits).map c.th ∧ ∀ l ∈ g.lows, l ≤ c.tl0 := by
  refine openFrame_append_lowCells_newFrame ha h7 e k b bits ?_
  rcases hfresh with rfl | hend
  · exact openFrame_first gap _ (ha b).1
  rcases runs_blank_or_openFrame gap t with ⟨m, hm⟩ | ⟨before, f, m, ho⟩
  · rw [hm, framesOfRuns_blank, snocRun_merge]
    exact openFrame_first gap _ (ha b).1
  · obtain ⟨-, hm⟩ := ho.endsInGap_iff.mp hend
    rw [ho.frames fun _ => by omega, decide_eq_true hm]
    exact (ho.low _).newFrame (by omega) (by omega) (ha b).1

end

/-! The reference decoder. -/

/-- A byte is the byte of its bits (R175). -/
theorem byteOfBits_getLsbD (b : Byte) : byteOfBits (b.getLsbD 7) (b.getLsbD 6) (b.getLsbD 5) (b.getLsbD 4)
    (b.getLsbD 3) (b.getLsbD 2) (b.getLsbD 1) (b.getLsbD 0) = b := by
  revert b
  decide

theorem bytesOfBits_bitsOfBytes (bytes : List Byte) : bytesOfBits (bitsOfBytes bytes) = bytes := by
  induction bytes with
  | nil => rfl
  | cons b bytes ih =>
    show byteOfBits _ _ _ _ _ _ _ _ :: bytesOfBits (bitsOfBytes bytes) = _
    rw [byteOfBits_getLsbD, ih]

/-- Whole bytes are read apart from what follows them. -/
theorem bytesOfBits_append {xs : List Bool} (h : xs.length % 8 = 0) (ys : List Bool) :
    bytesOfBits (xs ++ ys) = bytesOfBits xs ++ bytesOfBits ys := by
  induction xs using bytesOfBits.induct with
  | case1 b7 b6 b5 b4 b3 b2 b1 b0 rest ih =>
    simp only [List.length_cons] at h
    simp [bytesOfBits, ih (by omega)]
  | case2 xs hxs =>
    match xs with
    | [] => rfl
    | [_] | [_, _] | [_, _, _] | [_, _, _, _] | [_, _, _, _, _] | [_, _, _, _, _, _] | [_, _, _, _, _, _, _] => cases h
    | b7 :: b6 :: b5 :: b4 :: b3 :: b2 :: b1 :: b0 :: rest => exact absurd rfl (hxs b7 b6 b5 b4 b3 b2 b1 b0 rest)

/-- With V5 the decoder reads the high time of a bit as that bit (R174). -/
theorem decodeBit_th {c : Cfg} (h5 : c.V5) (b : Bool) : decodeBit c (c.th b) = b := by
  obtain ⟨-, -, hread, -⟩ := thresholdTellsTheSymbolsApart c
  obtain ⟨h0, h1⟩ := hread h5
  cases b
  · exact h0
  · exact h1

theorem map_decodeBit_th {c : Cfg} (h5 : c.V5) (bits : List Bool) : (bits.map c.th).map (decodeBit c) = bits := by
  simp [Function.comp_def, decodeBit_th h5]

/-- A frame of the symbols of a byte sequence is read back as it. -/
theorem decodeBytes_of_highs {c : Cfg} (h5 : c.V5) {f : LineFrame} {bytes : List Byte}
    (h : f.highs = (bitsOfBytes bytes).map c.th) : decodeBytes c f = bytes := by
  rw [decodeBytes, LineFrame.bits, h, map_decodeBit_th h5, bytesOfBits_bitsOfBytes]

end Sys2Proof.Machine

/-! PROOFS. What a TRANSMIT leaves on the line, 45_line_observation.md R176, R177, R179, R182 (O41, O42, O43, O45). -/

namespace Sys2Proof.Machine

/-- Settles O41: its waveform is a row of cells, one for each bit. -/
theorem transmitAddsEightRunsPerByte : Obligations.TransmitAddsEightRunsPerByte := by
  intro s w rest n hp hpin hh hd hr hn hend h4 h6
  obtain ⟨k, a, t, hreturns, hsent, -, hquiet⟩ := exists_returnsIn hp hpin hh hd hr hn
  refine ⟨k, t, hreturns, fun hq => (hquiet hq).1, ?_⟩
  rw [hsent.waveform, highRuns_append_lowCells (cellsApart_of_separated h4 h6) _ _ _ _ (hend.imp_right (by omega)),
    List.length_append, List.length_map, length_bitsOfBytes, length_fbBytes]

/-- The bits of a sequence of at least one byte are at least one. -/
theorem exists_bits_cons (s : State) {n : Nat} (hn : n ≠ 0) : ∃ b bits, bitsOfBytes (s.fbBytes n) = b :: bits := by
  refine List.exists_cons_of_ne_nil fun h => ?_
  have hlen := length_bitsOfBytes (s.fbBytes n)
  rw [h, length_fbBytes, List.length_nil] at hlen
  omega

section
variable {s t : State} {rest : List HostStep} {n a : Nat}

/-- A TRANSMIT of no bytes leaves the frames of a fresh line. -/
theorem State.transmits.frames_none (hsent : s.transmits rest 0 a t) (hgap : 0 < s.cfg.resetCyc)
    (hfresh : s.freshLine) : lineFrames s.cfg t.trace = lineFrames s.cfg s.trace := by
  have hwave : runs t.trace = snocRun (runs s.trace) (false, a + s.cfg.cEnter + s.cfg.cExit) :=
    hsent.waveform.trans (runs_append_lowCells_nil ..)
  rw [lineFrames, hwave, framesOfRuns_fresh_low hgap hfresh, lineFrames]

/-- A TRANSMIT on a fresh line is a frame behind those there are. -/
theorem State.transmits.openFrame_fresh (hsent : s.transmits rest n a t) (hn : n ≠ 0) (ha : cellsApart s.cfg)
    (h7 : s.cfg.V7) (hfresh : s.freshLine) :
    ∃ g m, openFrame s.cfg.resetCyc (runs t.trace) (lineFrames s.cfg s.trace) g m ∧
      g.highs = (bitsOfBytes (s.fbBytes n)).map s.cfg.th ∧ ∀ l ∈ g.lows, l ≤ s.cfg.tl0 := by
  obtain ⟨b, bits, hbits⟩ := exists_bits_cons s hn
  rw [hsent.waveform, hbits]
  obtain ⟨g, m, hg, -, hhighs, hlows⟩ :=
    openFrame_append_lowCells_fresh ha h7 s.cfg.cExit (a + s.cfg.cEnter) b bits hfresh
  exact ⟨g, m, hg, hhighs, hlows⟩

end

/-- Settles O42: the row of cells is a frame of its own, and the decoder reads every symbol. -/
theorem roundTripOfTheLineCode : Obligations.RoundTripOfTheLineCode := by
  intro s w rest n hp hpin hh hd hr hn hfresh h4 h5 h6 h7
  obtain ⟨k, a, t, hreturns, hsent, hcfg, hquiet⟩ := exists_returnsIn hp hpin hh hd hr hn
  have hgap : 0 < s.cfg.resetCyc := by omega
  refine ⟨k, t, hreturns, fun hq => (hquiet hq).1, ?_⟩
  rw [hcfg]
  refine ⟨fun h0 => ?_, fun hne => ?_⟩
  · subst h0
    exact hsent.frames_none hgap hfresh
  · obtain ⟨g, m, hg, hhighs, -⟩ := hsent.openFrame_fresh hne (cellsApart_of_valid h4 h5 h6) h7 hfresh
    refine ⟨_, hg.frames fun _ => hgap, by simp [hhighs], decodeBytes_of_highs h5 hhighs⟩

/-- The low run that a trace ends in. -/
theorem openFrame.tailLow {gap m : Nat} {s : State} {before : List LineFrame} {f : LineFrame}
    (ho : openFrame gap (runs s.trace) before f m) : s.tailLow = m := by
  obtain ⟨q, h, hr, -⟩ := ho
  by_cases hm : m = 0
  · simp [State.tailLow, hr, hm]
  · simp [State.tailLow, hr, snocRun_concat _ _ _ _ hm]

/-- The last frame of a trace, if it is not latched, is the open one, and the low run behind it is no reset gap. -/
theorem openFrame_of_unlatched {c : Cfg} (hgap : 0 < c.resetCyc) {s : State} {before : List LineFrame} {f : LineFrame}
    (hframes : lineFrames c s.trace = before ++ [f]) (hf : f.latched = false) :
    openFrame c.resetCyc (runs s.trace) before f s.tailLow := by
  rw [lineFrames] at hframes
  rcases runs_blank_or_openFrame c.resetCyc s.trace with ⟨m, hm⟩ | ⟨before', g, m, ho⟩
  · rw [hm, framesOfRuns_blank] at hframes
    simp at hframes
  · rw [ho.frames fun _ => hgap] at hframes
    obtain ⟨rfl, hg⟩ := List.append_inj' hframes rfl
    have hopen := ho.latched
    rw [ho.tailLow]
    cases hg
    simp only at hf
    rw [hf, ← hopen]
    exact ho

/-- Settles O43: the low time before the first high run decides whether the row of cells goes on with the open frame. -/
theorem transmitWithoutLatchContinuesTheFrame : Obligations.TransmitWithoutLatchContinuesTheFrame := by
  intro s w rest n before f hp hpin hh hd hr hn hend hne hframes hf hwhole h4 h5 h6 h7
  obtain ⟨k, a, t, hreturns, hsent, hcfg, hquiet⟩ := exists_returnsIn hp hpin hh hd hr hn
  have hgap : 0 < s.cfg.resetCyc := by omega
  have ha := cellsApart_of_valid h4 h5 h6
  have ho := openFrame_of_unlatched hgap hframes hf
  obtain ⟨b, bits, hbits⟩ := exists_bits_cons s hne
  have hwave := hsent.waveform
  rw [hbits] at hwave
  refine ⟨k, t, a, hreturns, hquiet, hsent.now, ?_⟩
  rw [hcfg, lineFrames, hwave, hbits]
  refine ⟨fun hlt => ?_, fun hge => ?_⟩
  · have hpos : s.tailLow + (a + s.cfg.cEnter) + s.cfg.cRise ≠ 0 := fun h0 => by
      rcases hend with hlast | hlead
      · obtain ⟨q, h, hq, -⟩ := ho
        have htail : s.tailLow = 0 := by omega
        exact hlast h (by simp [hq, htail])
      · omega
    obtain ⟨g, m, hg, hhighs⟩ :=
      openFrame_append_lowCells_sameFrame ha h7 s.cfg.cExit (a + s.cfg.cEnter) b bits ho hpos (by omega)
    refine ⟨_, hg.frames fun _ => hgap, hhighs, ?_⟩
    calc bytesOfBits (g.highs.map (decodeBit s.cfg))
      _ = bytesOfBits (f.highs.map (decodeBit s.cfg) ++ bitsOfBytes (s.fbBytes n)) := by
        rw [hhighs, List.map_append, map_decodeBit_th h5, hbits]
      _ = decodeBytes s.cfg f ++ s.fbBytes n := by
        rw [bytesOfBits_append (by simpa using hwhole), bytesOfBits_bitsOfBytes]
        rfl
  · have hnew := (ho.low (a + s.cfg.cEnter + s.cfg.cRise)).newFrame (k := s.cfg.th b) (by omega) (by omega) (ha b).1
    obtain ⟨g, m, hg, -, hhighs, -⟩ := openFrame_append_lowCells_newFrame ha h7 s.cfg.cExit _ b bits hnew
    refine ⟨_, (hg.frames fun _ => hgap).trans (List.append_assoc ..), hhighs, ?_⟩
    rw [← hbits] at hhighs
    exact decodeBytes_of_highs h5 hhighs

/-! RXBITS (R176). -/

/-- The bits of the last frame while it is not latched. -/
theorem rxBitsOf_of_frames {c : Cfg} {t : Trace} {before : List LineFrame} {f : LineFrame}
    (h : lineFrames c t = before ++ [f]) : rxBitsOf c t = if f.latched then [] else f.bits c := by
  simp [rxBitsOf, h]

/-- The bits of an open frame are held back until the line has been low for a reset gap. -/
theorem openFrame.rxBitsOf {c : Cfg} {t : Trace} {before : List LineFrame} {f : LineFrame} {m : Nat}
    (ho : openFrame c.resetCyc (runs t) before f m) (hgap : m = 0 → 0 < c.resetCyc) :
    rxBitsOf c t = if endsInGap c.resetCyc t = true then [] else f.bits c := by
  rw [rxBitsOf_of_frames (ho.frames hgap)]
  by_cases hle : c.resetCyc ≤ m
  · have hend : endsInGap c.resetCyc t = true := ho.endsInGap_iff.mpr ⟨by omega, hle⟩
    simp [hle, hend]
  · have hend : endsInGap c.resetCyc t ≠ true := fun h => hle (ho.endsInGap_iff.mp h).2
    simp [hle, hend, LineFrame.bits]

/-- Behind a reset gap no bit is held back. -/
theorem rxBitsOf_of_endsInGap {c : Cfg} {t : Trace} (h : endsInGap c.resetCyc t = true) : rxBitsOf c t = [] := by
  rcases runs_blank_or_openFrame c.resetCyc t with ⟨m, hm⟩ | ⟨before, f, m, ho⟩
  · simp [Machine.rxBitsOf, lineFrames, hm, framesOfRuns_blank]
  · rw [ho.rxBitsOf fun hm => absurd hm (ho.endsInGap_iff.mp h).1, if_pos h]

/-- Settles O45: RXBITS are the open frame's bits, and a TRANSMIT on a fresh line makes its bytes the open frame. -/
theorem rxBitsAreTheBitsNotYetLatched : Obligations.RxBitsAreTheBitsNotYetLatched := by
  refine ⟨fun c t => ⟨fun h => by simp [rxBitsOf, h], fun before f => rxBitsOf_of_frames⟩,
    fun c t => rxBitsOf_of_endsInGap, ?transmit, fun s before after f hline hframes hf hlen => ?rxBits⟩
  case transmit =>
    intro s w rest n hp hpin hh hd hr hn hfresh hne h4 h5 h6 h7
    obtain ⟨k, a, t, hreturns, hsent, hcfg, hquiet⟩ := exists_returnsIn hp hpin hh hd hr hn
    obtain ⟨g, m, hg, hhighs, -⟩ := hsent.openFrame_fresh hne (cellsApart_of_valid h4 h5 h6) h7 hfresh
    refine ⟨k, t, hreturns, fun hq => (hquiet hq).1, ?_⟩
    rw [hcfg, hg.rxBitsOf fun _ => by omega, LineFrame.bits, hhighs, map_decodeBit_th h5]
  case rxBits =>
    have hexact : latchedExact s.cfg s.trace = true := by simp [latchedExact, hframes, hf, hlen]
    exact rxBits_of_defined hline hexact

end Sys2Proof.Machine

/-! SUPPORT. The Host's list: its idle times, its commands, and the frame that a SHOW in it presents, 30_encoding.md
R89, 70_reset_and_hazards.md R223. -/

namespace Sys2Proof.Machine

/-- Idle times alone. -/
def idlesOnly (l : List HostStep) : Prop := ∀ h ∈ l, h.isIdle = true

theorem exists_idle {h : HostStep} (hi : h.isIdle = true) : ∃ k, h = .idle k := by
  cases h with
  | idle k => exact ⟨k, rfl⟩
  | _ => cases hi

@[simp] theorem commandWords_append (l l' : List HostStep) :
    commandWords (l ++ l') = commandWords l ++ commandWords l' := by
  induction l with
  | nil => rfl
  | cons h l ih => cases h <;> simp [commandWords, ih]

theorem commandWords_idles {l : List HostStep} (hl : idlesOnly l) : commandWords l = [] := by
  induction l with
  | nil => rfl
  | cons h l ih =>
    obtain ⟨hh, htail⟩ := List.forall_mem_cons.mp hl
    obtain ⟨k, rfl⟩ := exists_idle hh
    exact ih htail

/-- Nothing but commands and what comes before them stands in the part up to the last command. -/
theorem commandPart_ends {host l l' : List HostStep} (h : commandPart host = l ++ l') (hl : commandWords l' = []) :
    l' = [] := by
  induction host generalizing l with
  | nil => exact (List.append_eq_nil_iff.mp h.symm).2
  | cons x host ih =>
    by_cases hw : commandWords (x :: host) = []
    · rw [commandPart, if_pos hw] at h
      exact (List.append_eq_nil_iff.mp h.symm).2
    · rw [commandPart, if_neg hw] at h
      cases l with
      | nil =>
        obtain ⟨tail, htail, hnone⟩ := commandPart_append host
        have hsplit : x :: host = l' ++ tail := by rw [← List.nil_append l', ← h, List.cons_append, ← htail]
        rw [hsplit, commandWords_append, hl, hnone] at hw
        exact absurd rfl hw
      | cons y l =>
        obtain ⟨-, htail⟩ := List.cons.inj h
        exact ih htail

theorem oeHeld_idles {l : List HostStep} (hl : idlesOnly l) (oe : Bool) (l' : List HostStep) :
    oeHeld oe (l ++ l') = oeHeld oe l' := by
  induction l with
  | nil => rfl
  | cons h l ih =>
    obtain ⟨hh, htail⟩ := List.forall_mem_cons.mp hl
    obtain ⟨k, rfl⟩ := exists_idle hh
    exact ih htail

theorem framesPresented_idles {l : List HostStep} (hl : idlesOnly l) (s : State) (sent : Option (List Byte))
    (l' : List HostStep) : framesPresented s sent (l ++ l') = framesPresented s sent l' := by
  induction l with
  | nil => rfl
  | cons h l ih =>
    obtain ⟨hh, htail⟩ := List.forall_mem_cons.mp hl
    obtain ⟨k, rfl⟩ := exists_idle hh
    simpa [framesPresented] using ih htail

/-- Without a command no frame is presented. -/
theorem framesPresented_of_noCommand {l : List HostStep} (hl : commandWords l = []) (s : State) :
    framesPresented s none l = some [] := by
  induction l generalizing s with
  | nil => rfl
  | cons h l ih =>
    cases h with
    | command w => cases hl
    | _ => simpa [framesPresented] using ih hl _

/-- The list of a SHOW of `pixels`, with idle times before and between its actions and `rest` behind them. -/
def showList (lenBits : Nat) (pixels : List Rgb) (i₁ i₂ i₃ rest : List HostStep) : List HostStep :=
  i₁ ++ .writeFb (frameBytes pixels) :: (i₂ ++ present lenBits (.transmit (frameBytes pixels).length) ::
    (i₃ ++ present lenBits .latch :: rest))

/-- A Host whose actions up to its last command are those of SHOW but for idle times has such a list. -/
theorem exists_showList {host : List HostStep} {lenBits : Nat} {pixels : List Rgb}
    (h : (commandPart host).filter (fun h => !h.isIdle) = showSteps lenBits pixels) :
    ∃ i₁ i₂ i₃ rest, idlesOnly i₁ ∧ idlesOnly i₂ ∧ idlesOnly i₃ ∧ commandWords rest = [] ∧
      commandPart host = showList lenBits pixels i₁ i₂ i₃ [] ∧ host = showList lenBits pixels i₁ i₂ i₃ rest := by
  have hidle : ∀ {l : List HostStep}, (∀ h ∈ l, ¬ (!h.isIdle) = true) → idlesOnly l := fun hl h hm => by
    simpa using hl h hm
  obtain ⟨i₁, l₁, hpart, hi₁, -, h⟩ := List.filter_eq_cons_iff.mp h
  obtain ⟨i₂, l₂, rfl, hi₂, -, h⟩ := List.filter_eq_cons_iff.mp h
  obtain ⟨i₃, l₃, rfl, hi₃, -, h⟩ := List.filter_eq_cons_iff.mp h
  have hi₄ : idlesOnly l₃ := hidle (List.filter_eq_nil_iff.mp h)
  have hassoc : commandPart host = (i₁ ++ .writeFb (frameBytes pixels) :: (i₂ ++
      present lenBits (.transmit (frameBytes pixels).length) :: (i₃ ++ [present lenBits .latch]))) ++ l₃ := by
    simp [hpart]
  obtain rfl := commandPart_ends hassoc (commandWords_idles hi₄)
  obtain ⟨tail, hhost, hnone⟩ := commandPart_append host
  refine ⟨i₁, i₂, i₃, tail, hidle hi₁, hidle hi₂, hidle hi₃, hnone, hpart, ?_⟩
  rw [hhost, hpart]
  simp [showList]

/-- With P_OE the Host of a SHOW has set OE. -/
theorem oe_of_showList {lenBits : Nat} {pixels : List Rgb} {i₁ i₂ i₃ rest : List HostStep} {oe : Bool}
    (hi₁ : idlesOnly i₁) (hi₂ : idlesOnly i₂) (h : oeHeld oe (showList lenBits pixels i₁ i₂ i₃ rest) = true) :
    oe = true := by
  rw [showList, oeHeld_idles hi₁, oeHeld, oeHeld_idles hi₂, present, oeHeld, Bool.and_eq_true] at h
  exact h.1

/-- A SHOW that presents its frame fits the length field: its word is that of the TRANSMIT. -/
theorem decode_of_showList {s : State} {pixels : List Rgb} {frames : List (List Byte)} {i₁ i₂ i₃ rest : List HostStep}
    (hi₁ : idlesOnly i₁) (hi₂ : idlesOnly i₂) (hi₃ : idlesOnly i₃) (hrest : commandWords rest = [])
    (hne : frames ≠ [])
    (h : framesPresented s none (showList s.cfg.lenBits pixels i₁ i₂ i₃ rest) = some frames) :
    decodeCommand s.cfg.lenBits (encode s.cfg.lenBits (.transmit (frameBytes pixels).length)) =
      .instr (.transmit (frameBytes pixels).length) := by
  rw [showList, framesPresented_idles hi₁, framesPresented, framesPresented_idles hi₂, present] at h
  cases hd : decodeCommand s.cfg.lenBits (encode s.cfg.lenBits (.transmit (frameBytes pixels).length)) with
  | rejected r => simp only [framesPresented, State.writeFb_cfg, hd, reduceCtorEq] at h
  | instr i =>
    rcases decodeCommand_format hd with ⟨n, rfl⟩ | rfl
    · obtain ⟨hw, -⟩ := decodeCommand_transmit hd
      obtain rfl : (frameBytes pixels).length = n := Nat.add_left_cancel hw
      rfl
    · simp only [hd, framesPresented_idles hi₃, present, framesPresented, State.writeFb_cfg,
        decodeCommand_encode_latch, framesPresented_of_noCommand hrest] at h
      cases h
      exact absurd rfl hne

end Sys2Proof.Machine

/-! SUPPORT. The Host's turns in IDLE: what each of its actions makes of the line, whatever the maskable sources do. -/

namespace Sys2Proof.Machine

/-! Runs in which no reset comes and the Host does not write OE. -/

/-- The run is driven: OE is 1 and its observation is defined (45_line_observation.md R186). -/
def State.driven (s : State) : Prop := s.oe = true ∧ s.line ≠ .lost

/-- In IDLE, with no command to come or with OE to be written next. -/
def State.atRest (s : State) : Prop :=
  s.phase = Phase.idle ∧ (commandWords s.host = [] ∨ ∃ v rest, s.host = .writeOe v :: rest)

section
variable {s t u : State} {k : Nat}

theorem exec_driven {i : Instr} (h : exec i s = .next t) (hs : s.driven) : t.driven := by
  obtain ⟨hoe, hline⟩ := hs
  obtain ⟨-, hoe', -⟩ := exec_frame h
  refine ⟨hoe'.trans hoe, ?_⟩
  rcases exec_line h with rfl | hl
  · exact hline
  · rw [hl, hoe]
    exact LineStatus.use_ne_lost hline

/-- Only a reset and a write of OE end a driven run. -/
theorem step_driven (hr : s.noReset) (hn : ¬ s.atRest) (h : step s = .next t) (hs : s.driven) : t.driven := by
  rcases step_cases h with ⟨r, hl, -⟩ | ⟨j, rest, -, -, rfl⟩ | ⟨-, hp, hh⟩ | ⟨-, -, i, -, hx⟩
  · exact absurd (hr true (hl ▸ List.mem_cons_self)) (by decide)
  · exact hs
  · rcases hostStep_cases hh with ⟨-, rfl⟩ | ⟨w, rest, i, -, -, hx⟩ | ⟨j, rest, -, rfl⟩ | ⟨bytes, rest, -, rfl⟩ |
      ⟨i, b, rest, -, rfl⟩ | ⟨v, rest, hhost, -⟩ | ⟨v, rest, -, rfl⟩
    · exact hs
    · exact exec_driven (s := s.inputsUsed.setHost rest) hx hs
    · exact hs
    · exact hs
    · exact hs
    · exact absurd ⟨hp, .inr ⟨v, rest, hhost⟩⟩ hn
    · exact hs
  · exact exec_driven (s := s.inputsUsed) hx hs

theorem passes_driven (h : s.passes State.atRest k t) (hr : s.noReset) (hs : s.driven) : t.driven := by
  obtain ⟨hrun, hnot⟩ := h
  induction k generalizing s with
  | zero => cases hrun; exact hs
  | succ k ih =>
    obtain ⟨u, hu, hrest⟩ := runSteps_succ_iff.mp hrun
    refine ih (step_noReset hr hu) (step_driven hr (hnot 0 s k.succ_pos rfl) hu hs) hrest fun m v hm hv => ?_
    exact hnot (m + 1) v (Nat.succ_lt_succ hm) ((runSteps_succ hu).trans hv)

/-- A silent environment stays silent. -/
theorem run_silent (hs : s.silent) (h : runSteps k s = .next t) : t.silent := by
  induction k generalizing s with
  | zero => cases h; exact hs
  | succ k ih =>
    obtain ⟨hr, hp⟩ := hs
    obtain ⟨u, hu, hrun⟩ := runSteps_succ_iff.mp h
    refine ih ⟨by rw [step_rst hu, hr]; rfl, ?_⟩ hrun
    exact List.eq_nil_of_suffix_nil (hp ▸ step_preemptor_suffix hu)

theorem undisturbedNow_of_silent (hs : s.silent) : s.undisturbedNow := by
  obtain ⟨hr, hp⟩ := hs
  exact ⟨by simp [hr], by simp [hp]⟩

end

/-! Turns. -/

/-- In IDLE on a low line, with no reset and no source that ignores IE to come. -/
structure State.ready (s : State) : Prop where
  phase : s.phase = Phase.idle
  pin : s.pin = false
  noReset : s.noReset
  noUnmaskable : s.P_NoUnmaskable

/-- From `s` the Host's actions up to `rest` lead to `u`, ready again, in `k` steps, and have put `w` on the line; no
state before `u` was at rest. -/
structure State.turns (s : State) (k : Nat) (w : Trace) (rest : List HostStep) (u : State) : Prop where
  passes : s.passes State.atRest k u
  ready : u.ready
  host : u.host = rest
  waveform : runs u.trace = runs (s.trace ++ w)

section
variable {s u t : State} {j k : Nat} {w w' : Trace} {rest rest' : List HostStep}

theorem State.turns.trans (h : s.turns j w rest u) (h' : u.turns k w' rest' t) : s.turns (j + k) (w ++ w') rest' t where
  passes := h.passes.trans h'.passes
  ready := h'.ready
  host := h'.host
  waveform := by rw [h'.waveform, ← List.append_assoc, runs_append_congr_left h.waveform]

theorem State.turns.cfg (h : s.turns k w rest u) : u.cfg = s.cfg := (cfg_keptByMoves s.cfg).run rfl h.passes.1

/-- Before an action that is not a write of OE, with a command to come, the state is not at rest. -/
theorem not_atRest {a : HostStep} (hh : s.host = a :: rest) (hw : commandWords (a :: rest) ≠ [])
    (ha : ∀ v, a ≠ .writeOe v) : ¬ s.atRest := by
  rintro ⟨-, h | ⟨v, rest', h⟩⟩
  · exact hw (hh ▸ h)
  · exact ha v (List.cons.inj (hh.symm.trans h)).1

/-- The preemptions before an action of the Host. -/
theorem exists_stall_turn {a : HostStep} (hs : s.ready) (hh : s.host = a :: rest)
    (hw : commandWords (a :: rest) ≠ []) (ha : ∀ v, a ≠ .writeOe v) :
    ∃ k c u, s.turns k [(false, c)] (a :: rest) u ∧ s.stalls c u ∧ u.undisturbedNow ∧ (s.silent → k = 0) := by
  obtain ⟨k, c, u, hpass, hstall, hundisturbed, hquiet⟩ := exists_stall (P := State.atRest) hs.noReset hs.noUnmaskable
    fun v _ hhost => not_atRest (hhost.trans hh) hw ha
  obtain ⟨hr, hn⟩ := run_calmInputs hs.noReset hs.noUnmaskable hpass.1
  exact ⟨k, c, u, ⟨hpass, ⟨hstall.phase.trans hs.phase, hstall.pin.trans hs.pin, hr, hn⟩, hstall.host.trans hh,
    hs.pin ▸ hstall.waveform⟩, hstall, hundisturbed, fun h => (hquiet (undisturbedNow_of_silent h)).1⟩

/-- The Host's idle times before `rest`, in which a command is to come. -/
theorem exists_idles_turn {idles : List HostStep} (hi : idlesOnly idles) (hs : s.ready) (hh : s.host = idles ++ rest)
    (hw : commandWords rest ≠ []) :
    ∃ k c u, s.turns k [(false, c)] rest u ∧ (∀ n, u.fbBytes n = s.fbBytes n) ∧ (s.silent → k = idles.length) := by
  induction idles generalizing s with
  | nil =>
    exact ⟨0, 0, s, ⟨State.passes_zero, hs, hh, by rw [runs_append_singleton, snocRun_zero]⟩, fun _ => rfl,
      fun _ => rfl⟩
  | cons a idles ih =>
    obtain ⟨ha, htail⟩ := List.forall_mem_cons.mp hi
    obtain ⟨j, rfl⟩ := exists_idle ha
    have hw' : commandWords (.idle j :: (idles ++ rest)) ≠ [] := by
      simpa [commandWords] using fun _ => hw
    obtain ⟨k₁, c₁, u, hturn, hstall, hundisturbed, hsilent⟩ := exists_stall_turn hs hh hw' (by simp)
    obtain ⟨hr, hn⟩ := calmInputs_inputsUsed hturn.ready.noReset hturn.ready.noUnmaskable
    have hstep : step u = .next ((u.inputsUsed.setHost (idles ++ rest)).emit j) :=
      (step_idle hundisturbed hturn.ready.phase).trans (hostStep_idle u.inputsUsed hturn.host)
    have hidle : u.turns 1 [(false, j)] (idles ++ rest) ((u.inputsUsed.setHost (idles ++ rest)).emit j) :=
      ⟨State.passes_step hstep (not_atRest hturn.host hw' (by simp)), ⟨hturn.ready.phase, hturn.ready.pin, hr, hn⟩, rfl,
        by rw [← runs_push, ← hturn.ready.pin]; rfl⟩
    obtain ⟨k₂, c₂, t, hturn₂, hbytes, hsilent₂⟩ := ih htail hidle.ready rfl
    have hall := (hturn.trans hidle).trans hturn₂
    refine ⟨_, c₁ + j + c₂, t, ⟨hall.passes, hall.ready, hall.host, ?_⟩, fun n => ?_, fun h => ?_⟩
    · rw [hall.waveform]
      simp only [List.cons_append, List.nil_append, runs_append_merge]
    · exact (hbytes n).trans (hstall.fbBytes n)
    · have hsu := run_silent h hturn.passes.1
      rw [hsilent h, hsilent₂ (run_silent hsu hidle.passes.1), List.length_cons]
      omega

/-- HostWrite FB := bytes. -/
theorem exists_writeFb_turn {bytes : List Byte} (hs : s.ready) (hh : s.host = .writeFb bytes :: rest)
    (hw : commandWords rest ≠ []) (hfit : bytes.length ≤ fbSize s.cfg) :
    ∃ k c u, s.turns k [(false, c)] rest u ∧ u.fbBytes bytes.length = bytes ∧ (s.silent → k = 1) := by
  have hw' : commandWords (.writeFb bytes :: rest) ≠ [] := hw
  obtain ⟨k, c, u, hturn, -, hundisturbed, hsilent⟩ := exists_stall_turn hs hh hw' (by simp)
  obtain ⟨hr, hn⟩ := calmInputs_inputsUsed hturn.ready.noReset hturn.ready.noUnmaskable
  have hstep : step u = .next ((u.inputsUsed.setHost rest).writeFb bytes) :=
    (step_idle hundisturbed hturn.ready.phase).trans (hostStep_writeFb u.inputsUsed hturn.host)
  refine ⟨k + 1, c, _, ⟨hturn.passes.trans (State.passes_step hstep (not_atRest hturn.host hw' (by simp))),
    ⟨hturn.ready.phase, hturn.ready.pin, hr, hn⟩, rfl, hturn.waveform⟩, ?_, fun h => by rw [hsilent h]⟩
  exact State.fbBytes_writeFb _ bytes (hturn.cfg ▸ hfit)

/-- TRANSMIT of the first `n` bytes of FB. -/
theorem exists_transmit_turn {x n : Nat} (hs : s.ready) (hh : s.host = .command x :: rest)
    (hd : decodeCommand s.cfg.lenBits x = .instr (.transmit n)) :
    ∃ k a u, s.turns k (lowCells s.cfg s.cfg.cExit (a + s.cfg.cEnter) (bitsOfBytes (s.fbBytes n))) rest u ∧
      (s.silent → k = 3 + 57 * n) := by
  have hP : ∀ v : State, v.atRest → v.phase = Phase.idle ∧ v.host ≠ s.host := fun v hv =>
    ⟨hv.1, fun h => not_atRest (h.trans hh) (by simp [commandWords]) (by simp) hv⟩
  obtain ⟨k, a, u, hpass, hsent, hquiet⟩ := exists_transmits hs.phase hs.pin hh hd hs.noReset hs.noUnmaskable hP
  obtain ⟨hr, hn⟩ := run_calmInputs hs.noReset hs.noUnmaskable hpass.1
  exact ⟨k, a, u, ⟨hpass, ⟨hsent.phase, hsent.pin, hr, hn⟩, hsent.host, hsent.waveform⟩,
    fun h => (hquiet (.inr (by simp [h.2]))).1⟩

/-- HOLDR lets T_LATCH low cycles pass, and those that are stolen before it (42_latch.md R142). -/
theorem exists_holdr_turn (hp : s.phase = Phase.holdr) (hpin : s.pin = false) (hr : s.noReset)
    (hn : s.P_NoUnmaskable) :
    ∃ k c u, s.turns k [(false, c + s.cfg.tLatch)] s.host u ∧ (s.silent → k = 1) := by
  have hbusy : ∀ {v : State}, v.phase = Phase.holdr → ¬ v.atRest := fun hv hrest =>
    absurd (hv.symm.trans hrest.1) (by decide)
  obtain ⟨k, c, u, hpass, hstall, hundisturbed, hquiet⟩ :=
    exists_stall (P := State.atRest) hr hn fun v hv _ => hbusy (hv.trans hp)
  obtain ⟨hr', hn'⟩ := run_calmInputs hr hn hpass.1
  obtain ⟨hr'', hn''⟩ := calmInputs_inputsUsed hr' hn'
  have hp' : u.phase = Phase.holdr := hstall.phase.trans hp
  have hpin' : u.pin = false := hstall.pin.trans hpin
  have hhold : step u = .next ((u.inputsUsed.spend u.cfg.tLatch).goto Phase.idle) :=
    step_operation (i := .holdr) hundisturbed (by rw [hp']; decide) (by rw [hp']; rfl)
  refine ⟨k + 1, c, _, ⟨hpass.trans (State.passes_step hhold (hbusy hp')), ⟨rfl, hpin', hr'', hn''⟩, hstall.host, ?_⟩,
    fun h => by rw [(hquiet (undisturbedNow_of_silent h)).1]⟩
  calc runs (Trace.push u.trace u.pin u.cfg.tLatch)
    _ = runs (s.trace ++ [(false, c)] ++ [(false, s.cfg.tLatch)]) := by
      rw [runs_push, hpin', hstall.cfg, runs_append_congr_left hstall.waveform, hpin]
    _ = runs (s.trace ++ [(false, c + s.cfg.tLatch)]) := by
      rw [List.append_assoc]
      exact runs_append_merge ..

/-- LATCH: low for T_LATCH cycles or more. -/
theorem exists_latch_turn {x : Nat} (hs : s.ready) (hh : s.host = .command x :: rest)
    (hd : decodeCommand s.cfg.lenBits x = .instr .latch) :
    ∃ k c u, s.turns k [(false, c + s.cfg.tLatch)] rest u ∧ (s.silent → k = 2) := by
  have hw : commandWords (.command x :: rest) ≠ [] := by simp [commandWords]
  obtain ⟨k₁, c₁, u, hturn, -, hundisturbed, hsilent⟩ := exists_stall_turn hs hh hw (by simp)
  obtain ⟨hr, hn⟩ := calmInputs_inputsUsed hturn.ready.noReset hturn.ready.noUnmaskable
  have haccept : step u = .next (u.inputsUsed.setHost rest).acceptLatch :=
    (step_command hundisturbed hturn.ready.phase hturn.host (hturn.cfg ▸ hd)).trans
      (exec_latch_idle (s := u.inputsUsed.setHost rest) hturn.ready.phase)
  have hstart := State.passes_step haccept (not_atRest hturn.host hw (by simp))
  obtain ⟨k₂, c₂, t, hhold, hsilent₂⟩ :=
    exists_holdr_turn (s := (u.inputsUsed.setHost rest).acceptLatch) rfl hturn.ready.pin hr hn
  have hwave : runs t.trace = runs (u.trace ++ [(false, c₂ + u.cfg.tLatch)]) := hhold.waveform
  refine ⟨_, c₁ + c₂, t, ⟨(hturn.passes.trans hstart).trans hhold.passes, hhold.ready, hhold.host, ?_⟩, fun h => ?_⟩
  · rw [hwave, runs_append_congr_left hturn.waveform, hturn.cfg, List.append_assoc, Nat.add_assoc]
    exact runs_append_merge ..
  · rw [hsilent h, hsilent₂ (run_silent (run_silent h hturn.passes.1) hstart.1)]

end

end Sys2Proof.Machine

/-! PROOFS. A SHOW on a fresh line, 45_line_observation.md R180, R184 (O47). -/

namespace Sys2Proof.Machine

/-! What the string shows. -/

/-- Pixels are read back from their bytes (R180). -/
theorem coloursOf_frameBytes (pixels : List Rgb) : coloursOf (frameBytes pixels) = pixels := by
  induction pixels with
  | nil => rfl
  | cons p pixels ih => exact congrArg (p :: ·) ih

/-- The last frame, if it is latched and sets the colours, decides what the string shows. -/
theorem showFrames_append {c : Cfg} {f : LineFrame} {cs : List Rgb} (hf : ∀ n v, f.show c n v = .colours cs) (n : Nat)
    (v : LedView) (before : List LineFrame) : showFrames c n v (before ++ [f]) = .colours cs := by
  induction before generalizing n v with
  | nil => exact hf n v
  | cons g before ih => exact ih _ _

/-- A latched frame of the symbols of NPIX pixels, in which no low run is above TL0, sets the colours to them. -/
theorem show_of_pixels {c : Cfg} (h5 : c.V5) {f : LineFrame} {pixels : List Rgb} (hlen : pixels.length = c.nPix)
    (hlatched : f.latched = true) (hhighs : f.highs = (bitsOfBytes (frameBytes pixels)).map c.th)
    (hlows : ∀ l ∈ f.lows, l ≤ c.tl0) (n : Nat) (v : LedView) : f.show c n v = .colours pixels := by
  have hsymbols : f.symbolsOnly c = true := by
    rw [LineFrame.symbolsOnly, hhighs, List.all_map, List.all_eq_true]
    intro b _
    cases b <;> simp [Cfg.th]
  have hopen : f.openLows c = 0 := by
    rw [LineFrame.openLows, List.countP_eq_zero]
    intro l hl
    simpa using hlows l hl
  have hbytes := decodeBytes_of_highs h5 hhighs
  simp [LineFrame.show, hlatched, hsymbols, hopen, hbytes, hlen, coloursOf_frameBytes]

/-- The last frame of the line is latched and carries `pixels`, and the observation is defined. -/
def State.carries (s : State) (pixels : List Rgb) : Prop :=
  s.line ≠ .lost ∧ ∃ before f m, openFrame s.cfg.resetCyc (runs s.trace) before f m ∧ s.cfg.resetCyc ≤ m ∧
    f.highs = (bitsOfBytes (frameBytes pixels)).map s.cfg.th ∧ ∀ l ∈ f.lows, l ≤ s.cfg.tl0

/-- Then the string shows them and no bit is held back. -/
theorem State.carries.shows {s : State} {pixels : List Rgb} (h : s.carries pixels) (h5 : s.cfg.V5) (h7 : s.cfg.V7)
    (hlen : pixels.length = s.cfg.nPix) :
    s.waveform = some (runs s.trace) ∧ s.rxBits = some [] ∧ ∀ d, d < s.cfg.nPix → s.led d = pixels[d]? := by
  obtain ⟨hline, before, f, m, ho, hm, hhighs, hlows⟩ := h
  have hgap : 0 < s.cfg.resetCyc := by omega
  have hframes : lineFrames s.cfg s.trace = before ++ [{ f with latched := true }] := by
    rw [lineFrames, ho.frames fun _ => hgap, decide_eq_true hm]
  have hbits : (decodeBytes s.cfg { f with latched := true }).length = 3 * s.cfg.nPix := by
    rw [decodeBytes_of_highs h5 (f := { f with latched := true }) hhighs, length_frameBytes, hlen]
  obtain ⟨-, -, -, rxBits_eq⟩ := rxBitsAreTheBitsNotYetLatched
  refine ⟨waveform_of_defined hline, ?_, fun d hd => ?_⟩
  · rw [rxBits_eq s before [] _ hline hframes rfl hbits, rxBitsOf_of_frames hframes, if_pos rfl]
  · have hview : s.ledView = .colours pixels := by
      rw [ledView_of_defined hline, hframes]
      exact showFrames_append (show_of_pixels h5 (f := { f with latched := true }) hlen rfl hhighs hlows) ..
    simp [State.led, hd, hview]

/-! After the end of the run. -/

/-- Low cycles leave what the last frame carries. -/
theorem State.carries.low {s t : State} {pixels : List Rgb} (h : s.carries pixels) (hcfg : t.cfg = s.cfg)
    (hline : t.line = s.line) {k : Nat} (htr : t.trace = s.trace.push false k) : t.carries pixels := by
  obtain ⟨hlost, before, f, m, ho, hm, hrest⟩ := h
  refine ⟨hline ▸ hlost, before, f, m + k, ?_, ?_, hcfg ▸ hrest⟩
  · rw [htr, runs_push_snoc, hcfg]
    exact ho.low k
  · rw [hcfg]
    omega

/-- With idle time alone to come a step lets low cycles pass. -/
theorem step_idlesOnly {s t : State} (hs : s.ready) (hi : idlesOnly s.host) (h : step s = .next t) :
    t.ready ∧ idlesOnly t.host ∧ t.line = s.line ∧ ∃ k, t.trace = s.trace.push false k := by
  have hr := step_noReset hs.noReset h
  have hn := step_noUnmaskable hs.noUnmaskable h
  have hpin := hs.pin
  rcases step_cases h with ⟨r, hl, -⟩ | ⟨k, rest, -, -, rfl⟩ | ⟨-, -, hh⟩ | ⟨-, hb, -⟩
  · exact absurd (hs.noReset true (hl ▸ List.mem_cons_self)) (by decide)
  · exact ⟨⟨hs.phase, hpin, hr, hn⟩, hi, rfl, k, hpin ▸ rfl⟩
  · rcases hostEmpty : s.host with _ | ⟨a, rest⟩
    · cases (hostStep_none s.inputsUsed hostEmpty).symm.trans hh
      exact ⟨⟨hs.phase, hpin, hr, hn⟩, hi, rfl, 1, hpin ▸ rfl⟩
    · rw [hostEmpty] at hi
      obtain ⟨ha, hrest⟩ := List.forall_mem_cons.mp hi
      obtain ⟨k, rfl⟩ := exists_idle ha
      cases (hostStep_idle s.inputsUsed hostEmpty).symm.trans hh
      exact ⟨⟨hs.phase, hpin, hr, hn⟩, hrest, rfl, k, hpin ▸ rfl⟩
  · exact absurd hs.phase hb

/-- So the line carries the pixels on, however much time passes. -/
theorem run_idlesOnly {k : Nat} {s t : State} {pixels : List Rgb} (hs : s.ready) (hi : idlesOnly s.host)
    (hc : s.carries pixels) (h : runSteps k s = .next t) : t.ended ∧ t.carries pixels := by
  induction k generalizing s with
  | zero => cases h; exact ⟨⟨hs.phase, commandWords_idles hi⟩, hc⟩
  | succ k ih =>
    obtain ⟨u, hu, hrun⟩ := runSteps_succ_iff.mp h
    obtain ⟨hs', hi', hline, j, htr⟩ := step_idlesOnly hs hi hu
    exact ih hs' hi' (hc.low ((cfg_keptByMoves s.cfg).step rfl hu) hline htr) hrun

/-! The run of a SHOW. -/

/-- The waveform of a SHOW is a row of cells, with all the low time after it behind the last one. -/
theorem runs_show (t : Trace) (c : Cfg) (e k a₁ a₂ a₃ a₄ a₅ : Nat) (bits : List Bool) :
    runs (t ++ ([(false, a₁)] ++ [(false, a₂)] ++ [(false, a₃)] ++ lowCells c e k bits ++ [(false, a₄)] ++
      [(false, a₅)])) = runs (t ++ lowCells c (e + a₄ + a₅) (a₁ + a₂ + a₃ + k) bits) := by
  have hend : runs [(false, e), (false, a₄), (false, a₅)] = runs [(false, e + a₄ + a₅)] := by
    simp only [runs_cons, consRun_merge, Nat.add_assoc]
  have hcells := runs_append_congr hend ((false, a₁ + a₂ + a₃ + k) :: bits.flatMap (cellTrace c))
  simp only [lowCells, List.append_assoc, List.cons_append, List.nil_append, runs_append_merge] at hcells ⊢
  exact runs_append_congr hcells t

/-- A SHOW, with idle times before and between its actions, is done when its LATCH is, and its row of cells has then a
reset gap or more behind it. -/
theorem exists_show_turn {s : State} {pixels : List Rgb} {i₁ i₂ i₃ rest : List HostStep} (hs : s.ready)
    (hi₁ : idlesOnly i₁) (hi₂ : idlesOnly i₂) (hi₃ : idlesOnly i₃)
    (hh : s.host = showList s.cfg.lenBits pixels i₁ i₂ i₃ rest)
    (hd : decodeCommand s.cfg.lenBits (encode s.cfg.lenBits (.transmit (frameBytes pixels).length)) =
      .instr (.transmit (frameBytes pixels).length)) :
    ∃ k e a t, s.turns k (lowCells s.cfg e a (bitsOfBytes (frameBytes pixels))) rest t ∧ s.cfg.tLatch ≤ e ∧
      (s.silent → k = (showList s.cfg.lenBits pixels i₁ i₂ i₃ []).length + (3 + 57 * (frameBytes pixels).length)) := by
  have hfit : (frameBytes pixels).length ≤ fbSize s.cfg := (decodeCommand_transmit hd).2.le
  obtain ⟨k₁, a₁, u₁, h₁, -, hk₁⟩ := exists_idles_turn hi₁ hs hh (by simp [commandWords, present])
  obtain ⟨k₂, a₂, u₂, h₂, hbytes₂, hk₂⟩ :=
    exists_writeFb_turn h₁.ready h₁.host (by simp [commandWords, present]) (h₁.cfg ▸ hfit)
  obtain ⟨k₃, a₃, u₃, h₃, hbytes₃, hk₃⟩ :=
    exists_idles_turn hi₂ h₂.ready h₂.host (by simp [commandWords, present])
  have hcfg : u₃.cfg = s.cfg := h₃.cfg.trans (h₂.cfg.trans h₁.cfg)
  obtain ⟨k₄, a₄, u₄, h₄, hk₄⟩ := exists_transmit_turn h₃.ready h₃.host (by rw [hcfg]; exact hd)
  obtain ⟨k₅, a₅, u₅, h₅, -, hk₅⟩ :=
    exists_idles_turn hi₃ h₄.ready h₄.host (by simp [commandWords, present])
  have hcfg₅ : u₅.cfg = s.cfg := h₅.cfg.trans (h₄.cfg.trans hcfg)
  obtain ⟨k₆, a₆, t, h₆, hk₆⟩ :=
    exists_latch_turn h₅.ready h₅.host (by rw [hcfg₅]; exact decodeCommand_encode_latch _)
  have hall := ((((h₁.trans h₂).trans h₃).trans h₄).trans h₅).trans h₆
  rw [hbytes₃, hbytes₂, hcfg, hcfg₅] at hall
  refine ⟨_, _, _, t, ⟨hall.passes, hall.ready, hall.host, hall.waveform.trans (runs_show ..)⟩, by omega, fun h => ?_⟩
  have hs₁ := run_silent h h₁.passes.1
  have hs₂ := run_silent hs₁ h₂.passes.1
  have hs₃ := run_silent hs₂ h₃.passes.1
  have hs₄ := run_silent hs₃ h₄.passes.1
  rw [hk₁ h, hk₂ hs₁, hk₃ hs₂, hk₄ hs₃, hk₅ hs₄, hk₆ (run_silent hs₄ h₅.passes.1)]
  simp only [showList, List.length_append, List.length_cons, List.length_nil]
  omega

/-- Settles O47: the SHOW puts a row of cells and a reset gap on a fresh line, and its end is the end of the run. -/
theorem showEndsWithThePixelsOnTheString : Obligations.ShowEndsWithThePixelsOnTheString := by
  intro s pixels hp hpin _ hline hoe hn hpart hframe hfresh hpos h4 h5 h6 h7 h8
  obtain ⟨hr, hheld, -⟩ := hoe
  obtain ⟨hpresented, hlens⟩ := hframe
  have hlen : pixels.length = s.cfg.nPix := hlens pixels List.mem_cons_self
  obtain ⟨i₁, i₂, i₃, rest, hi₁, hi₂, hi₃, hrest, hcommands, hhost⟩ := exists_showList hpart
  have hdriven : s.driven := ⟨oe_of_showList hi₁ hi₂ (hcommands ▸ hheld), hline⟩
  have hd := decode_of_showList hi₁ hi₂ hi₃ hrest (by simp) (hhost ▸ hpresented)
  obtain ⟨k, e, a, t, hturn, hlatch, hsilent⟩ := exists_show_turn ⟨hp, hpin, hr, hn⟩ hi₁ hi₂ hi₃ hhost hd
  have hcfg := hturn.cfg
  obtain ⟨b, bits, hbits⟩ : ∃ b bits, bitsOfBytes (frameBytes pixels) = b :: bits := by
    refine List.exists_cons_of_length_pos ?_
    rw [length_bitsOfBytes, length_frameBytes]
    omega
  have hcarries : t.carries pixels := by
    obtain ⟨f, m, ho, hm, hhighs, hlows⟩ :=
      openFrame_append_lowCells_fresh (cellsApart_of_valid h4 h5 h6) h7 e a b bits hfresh
    rw [← hbits] at ho hhighs
    rw [← hturn.waveform] at ho
    obtain ⟨-, hdefined⟩ := passes_driven hturn.passes hr hdriven
    rw [State.carries, hcfg]
    exact ⟨hdefined, _, f, m, ho, h8.trans (hlatch.trans hm), hhighs, hlows⟩
  have hshows : ∀ {u : State}, u.cfg = s.cfg → u.carries pixels →
      u.waveform = some (runs u.trace) ∧ u.rxBits = some [] ∧ ∀ d, d < s.cfg.nPix → u.led d = pixels[d]? :=
    fun hu hc => hu ▸ hc.shows (hu ▸ h5) (hu ▸ h7) (hu ▸ hlen)
  obtain ⟨hwave, hrx, hled⟩ := hshows hcfg hcarries
  refine ⟨k, t, ?ends, fun h => ?steps, hwave, hrx, hled, fun hi m u hrun => ?after⟩
  case ends =>
    have hpass := hturn.passes.mono (Q := State.ended) fun v ⟨hidle, hnone⟩ => ⟨hidle, .inl hnone⟩
    exact hpass.firstIn ⟨hturn.ready.phase, hturn.host ▸ hrest⟩
  case steps =>
    rw [hsilent h, hcommands, length_frameBytes, hlen]
  case after =>
    obtain ⟨hended, hc⟩ := run_idlesOnly hturn.ready hi hcarries hrun
    exact ⟨hended, hshows (((cfg_keptByMoves t.cfg).run rfl hrun).trans hcfg) hc⟩

end Sys2Proof.Machine

/-! PROOFS. No traps and no preemption but by the flag, 60_exceptions.md R190, R193, R197 (O7, O30). -/

namespace Sys2Proof.Machine

/-! Where a step faults (R190). -/

/-- The codes 12 to 15 are no operation (93_implementation_defined.md U14). -/
theorem decodePhase_unused {p : PhaseCode} (h : 12 ≤ p.toNat) : ∃ r, decodePhase p = .rejected r := by
  cases hd : decodePhase p with
  | rejected r => exact ⟨r, rfl⟩
  | instr i =>
    have := legal_of_decode hd
    omega

/-- The Encoder faults on a code that is no operation. -/
theorem encoderStep_rejected {s : State} {r : Reject} (h : decodePhase s.phase = .rejected r) :
    encoderStep s = .fault (.illegalPhase s.phase) := by
  simp [encoderStep, h]

/-- The Host's step answers, or refuses a word that is no command (30_encoding.md R83). -/
theorem hostStep_answers_or_refuses (s : State) :
    (∃ t, hostStep s = .next t) ∨ ∃ w, hostStep s = .refused (.reservedCommand w) := by
  rcases hh : s.host with _ | ⟨h, rest⟩
  · exact .inl ⟨_, hostStep_none s hh⟩
  cases h with
  | command w =>
    cases hd : decodeCommand s.cfg.lenBits w with
    | instr i =>
      rw [hostStep_command s hh hd]
      exact .inl (exec_answers i _)
    | rejected r => exact .inr ⟨w, hostStep_reserved hh (by rw [hd]; rfl)⟩
  | idle k => exact .inl ⟨_, hostStep_idle s hh⟩
  | writeFb bytes => exact .inl ⟨_, hostStep_writeFb s hh⟩
  | writeByte i b => exact .inl ⟨_, hostStep_writeByte s hh⟩
  | writeOe v => exact .inl ⟨_, hostStep_writeOe s hh⟩
  | writeIe v => exact .inl ⟨_, hostStep_writeIe s hh⟩

/-- With a legal PHASE only the Host can keep a step from answering, and only in IDLE. -/
theorem step_answers_or_hostStep {s : State} (hp : s.phase.toNat ≤ 11) :
    (∃ t, step s = .next t) ∨ (s.phase = Phase.idle ∧ step s = hostStep s.inputsUsed) := by
  by_cases hr : s.rst.head? = some true
  · obtain ⟨r, hr⟩ := List.head?_eq_some_iff.mp hr
    exact .inl ⟨_, step_reset hr⟩
  rcases undisturbedNow_or_served hr with hu | ⟨k, rest, hserved⟩
  · by_cases hidle : s.phase = Phase.idle
    · exact .inr ⟨hidle, step_idle hu hidle⟩
    · have hne : s.phase.toNat ≠ 0 := fun h0 => hidle (BitVec.eq_of_toNat_eq h0)
      obtain ⟨i, hd⟩ := decodePhase_legal (by omega) hp
      rw [step_operation hu hidle hd]
      exact .inl (exec_answers i _)
  · exact .inl ⟨_, step_served hr hserved⟩

/-- Settles O7: the decoder rejects the codes 12 to 15, and with a legal PHASE the step answers or is the Host's, which
can refuse and not fault. -/
theorem onlyUnusedCodesFault : Obligations.OnlyUnusedCodesFault := by
  refine ⟨fun s hu h12 => ?_, fun s r hp hfault => ?_, fun s hp hbusy => ?_, exec_answers⟩
  · have hbusy : s.phase ≠ Phase.idle := fun hidle => by simp [hidle] at h12
    obtain ⟨r, hd⟩ := decodePhase_unused h12
    obtain ⟨-, -, step_busy⟩ := transmitIsAccepted
    exact (step_busy s hu hbusy).trans (encoderStep_rejected (s := s.inputsUsed) hd)
  · rcases step_answers_or_hostStep hp with ⟨t, h⟩ | ⟨-, h⟩
    · cases h.symm.trans hfault
    · rcases hostStep_answers_or_refuses s.inputsUsed with ⟨t, hh⟩ | ⟨w, hh⟩
      · cases (h.trans hh).symm.trans hfault
      · cases (h.trans hh).symm.trans hfault
  · exact (step_answers_or_hostStep hp).resolve_right fun ⟨hidle, _⟩ => hbusy hidle

/-! When a preemption is served (R193), and when it is held (R197). -/

/-- Neither the Host nor the Encoder takes a request off the Preemptor's list. -/
theorem runStep_preemptor {s t : State} (h : runStep s = .next t) : t.preemptor = s.preemptor := by
  rcases runStep_cases h with ⟨-, hh⟩ | ⟨-, he⟩
  · obtain ⟨rest, ⟨k, rfl⟩ | hw | ⟨i, -, hx⟩⟩ := hostStep_moves hh
    · rfl
    · exact (write_preemptor hw :)
    · obtain ⟨-, -, -, -, hpreemptor, -⟩ := exec_frame hx
      exact hpreemptor
  · obtain ⟨i, -, hx⟩ := encoderStep_cases he
    obtain ⟨-, -, -, -, hpreemptor, -⟩ := exec_frame hx
    exact hpreemptor

/-- A maskable request while IE = 0 is held: the step is the Host's or the Encoder's, on the same list of requests. -/
theorem step_held {s : State} {k : Nat} {rest : List Interrupt} (hr : s.rst.head? ≠ some true)
    (hreq : s.preemptor = .preempt k :: rest) (hie : s.ie = false) : step s = runStep (s.setRst s.rst.tail) := by
  have hused : s.inputsUsed = s.setRst s.rst.tail := by simp [State.inputsUsed, State.setRst, hreq]
  rw [← hused]
  exact step_undisturbed ⟨hr, by simp [hreq, hie]⟩

/-- R42 with IE = 1: the block is in IDLE, in ENTER or in HOLDR, with the pin low (10_state.md R42 (b), (c)). -/
theorem outside_low_of_R42 {s : State} (hs : s.R42) (hie : s.ie = true) :
    (s.phase = Phase.idle ∨ s.phase = Phase.enter ∨ s.phase = Phase.holdr) ∧ s.pin = false := by
  obtain ⟨hlegal, ⟨hlow, -, -⟩, hmask, -⟩ := hs
  have hout : ¬ (2 ≤ s.phase.toNat ∧ s.phase.toNat ≤ 10) := fun h => by simp [hmask h] at hie
  have hphase : s.phase = Phase.idle ∨ s.phase = Phase.enter ∨ s.phase = Phase.holdr := by
    simp only [State.phaseLegal] at hlegal
    simp only [← BitVec.toNat_inj, BitVec.toNat_ofNat]
    omega
  exact ⟨hphase, hlow (by rcases hphase with hp | hp | hp <;> simp [hp])⟩

/-- Settles O30: a request is served or held by IE, and R42 says where IE = 1. -/
theorem preemptionOnlyWhileEnabled : Obligations.PreemptionOnlyWhileEnabled := by
  intro s k rest hr hreq
  refine ⟨fun hie => ?served, fun hie => ?held, outside_low_of_R42⟩
  case served => exact step_served hr (.inl ⟨hreq, hie⟩)
  case held =>
    have hstep := step_held hr hreq hie
    exact ⟨hstep, fun t h => runStep_preemptor (s := s.setRst s.rst.tail) (hstep.symm.trans h)⟩

end Sys2Proof.Machine

/-! PROOFS. The premises about the environment's steps, 70_reset_and_hazards.md R223, R231 (O15). -/

namespace Sys2Proof.Machine

/-! Who moves the pin (R231). -/

/-- An instruction that moves the pin is RISE, COND or FALL. -/
theorem drives_of_pin_ne {i : Instr} {s t : State} (h : exec i s = .next t) (hne : t.pin ≠ s.pin) :
    i = .rise ∨ i = .cond ∨ i = .fall := by
  by_contra hno
  obtain ⟨hrise, hcond, hfall⟩ : i ≠ .rise ∧ i ≠ .cond ∧ i ≠ .fall := by simpa using hno
  exact hne (exec_pin h hrise hcond hfall)

theorem write_pin {s t : State} (hw : HostWrites s t) : t.pin = s.pin := by cases hw <;> rfl

/-- No command is one of the three that move the pin: the Host's step in IDLE, an acceptance too, leaves it. -/
theorem hostStep_pin {s t : State} (h : hostStep s = .next t) : t.pin = s.pin := by
  obtain ⟨rest, ⟨k, rfl⟩ | hw | ⟨i, hi, hx⟩⟩ := hostStep_moves h
  · rfl
  · exact write_pin (s := s.setHost rest) hw
  · have hne : ∀ j : Instr, j.format = .uop → i ≠ j := by
      rintro j hj rfl
      cases hi.symm.trans hj
    exact exec_pin (s := s.setHost rest) hx (hne _ rfl) (hne _ rfl) (hne _ rfl)

/-- A step that moves the pin is a reset or the Encoder's, and then PHASE holds the code of RISE, COND or FALL. -/
theorem pinExclusive : P_PinExclusive := by
  intro s t h hr hne
  rcases step_cases h with ⟨r, hl, -⟩ | ⟨k, rest, -, -, rfl⟩ | ⟨-, -, hh⟩ | ⟨-, -, i, hd, hx⟩
  · simp [hl] at hr
  · exact absurd rfl hne
  · exact absurd (hostStep_pin hh) hne
  · have hp := (phase_of_decode 0 hd).2
    rcases drives_of_pin_ne hx hne with rfl | rfl | rfl
    · exact .inl hp
    · exact .inr (.inl hp)
    · exact .inr (.inr hp)

/-! The buffer while the block is busy (20_memory.md R53). -/

/-- While a command is in progress a step that is no reset leaves the buffer's generation. -/
theorem step_busy_fbGen {s t : State} (hp : s.phase ≠ Phase.idle) (hr : s.rst.head? ≠ some true)
    (h : step s = .next t) : t.fbGen = s.fbGen := by
  rcases step_cases h with ⟨r, hl, -⟩ | ⟨k, rest, -, -, rfl⟩ | ⟨-, hp', -⟩ | ⟨-, -, i, -, hx⟩
  · simp [hl] at hr
  · rfl
  · exact absurd hp' hp
  · obtain ⟨-, -, -, -, -, -, -, hgen⟩ := exec_frame hx
    exact hgen

/-- FB is in the frame of a busy step, and its unwritten bytes stay the free values of one generation. -/
theorem fbStable : P_FBStable := by
  intro s t h hr hp
  obtain ⟨-, hfb, -⟩ := step_busy_frame hp hr h
  exact ⟨hfb, step_busy_fbGen hp hr h⟩

/-! The handler and the reset (60_exceptions.md R195, 10_state.md R40). -/

/-- A served request only lets its cycles pass. -/
theorem handlerKeepsIE : P_HandlerKeepsIE := by
  intro s t k rest hr hreq h
  cases (step_served hr hreq).symm.trans h
  rfl

/-- The reset's step is `systemReset`, which rewrites the Host's bit and buffer and the flag with the block. -/
theorem systemResetIsWhole : P_SystemReset := by
  intro s t rest hr h
  cases (step_reset hr).symm.trans h
  exact ⟨rfl, rfl, rfl, rfl, rfl, rfl⟩

/-- Settles O15: each premise by who makes the step, as `step_cases` lists the agents. -/
theorem environmentMeetsItsPremises : Obligations.EnvironmentMeetsItsPremises :=
  ⟨pinExclusive, fbStable, handlerKeepsIE, systemResetIsWhole⟩

end Sys2Proof.Machine
